-- ==== Sys2Proof/Word.lean ====
section
/-! DEFINITION. The block's value types (00_scope.md rules R9 to R11) and its input words
(30_encoding.md rules R70 to R74). -/

namespace Sys2Proof

/-- `u8`: scancodes, vectors, mouse bytes, characters, glyphs and colours (rule R10). -/
abbrev Byte := BitVec 8

/-- The width of an error code and of the fault address `cr2` (rule R72). -/
abbrev Word32 := BitVec 32

/-- An I/O port address: the port space is 16 bits wide (rules R2, R51). -/
abbrev Port := BitVec 16

/-- A key index, `sc[6:0]` (rule R71). -/
abbrev KeyIdx := BitVec 7

/-- The four input word formats of rule R70. -/
inductive Format where
  | sc8
  | vec8
  | mw10
  | con2
  deriving DecidableEq, Repr

/-- One input word with its format, which a decoder knows from the agent and the step that supplies
the word, not from its bits (rule R70). A VEC8 word carries the side values of rule R72. -/
inductive InputWord where
  /-- SC8: `rel ++ idx` (rule R71). -/
  | sc8 (sc : Byte)
  /-- VEC8: the vector and the side values `err` and `cr2` (rule R72). -/
  | vec8 (v : Byte) (err cr2 : Option Word32)
  /-- MW10: `phase ++ b` (rule R73). -/
  | mw10 (w : BitVec 10)
  /-- CON2: a consumer command (rule R74). -/
  | con2 (op : BitVec 2)
  deriving DecidableEq, Repr

/-- The format of an input word. -/
def InputWord.format : InputWord → Format
  | .sc8 _ => .sc8
  | .vec8 _ _ _ => .vec8
  | .mw10 _ => .mw10
  | .con2 _ => .con2

/-- The word's bits as one number, zero-extended to the widest format; the side values of a VEC8
word are not part of it (rule R72). -/
def InputWord.bits : InputWord → BitVec 10
  | .sc8 sc => sc.setWidth 10
  | .vec8 v _ _ => v.setWidth 10
  | .mw10 w => w
  | .con2 op => op.setWidth 10

end Sys2Proof
end

