-- ==== Sys2Proof/Config.lean ====
section
/-! DEFINITION. The configuration record `Cfg` of 00_scope.md rule R7, and the free values the spec
leaves to an implementation or to an agent's draw. -/

namespace Sys2Proof

/-- The configuration record of rule R7. `CURSOR_CELL`, the one field that is a function and OPEN,
is the constant `Config.cursorCell`. The record is carried in the machine's state and never written
(log 1). -/
structure Cfg where
  /-- `IRQ_BASE`: the vector of IRQ 0. -/
  irqBase : Byte
  /-- `KBUF_N`: the key buffer's capacity, OPEN. -/
  kbufN : Nat
  /-- `W`: the display's width in cells. -/
  width : Nat
  /-- `H`: the display's height in cells. -/
  height : Nat
  /-- `UNSH`: the unshifted keymap table. -/
  unsh : Vector Byte 128
  /-- `SHF`: the shifted keymap table. -/
  shf : Vector Byte 128
  /-- `SC_LSHIFT`: the key index of the left Shift key. -/
  scLshift : KeyIdx
  /-- `SC_RSHIFT`: the key index of the right Shift key. -/
  scRshift : KeyIdx
  /-- `SC_CTRL`: the key index of the Ctrl key. -/
  scCtrl : KeyIdx
  /-- `SC_ALT`: the key index of the Alt key. -/
  scAlt : KeyIdx
  /-- `SC_CAPS`: the key index of the Caps-Lock key. -/
  scCaps : KeyIdx
  /-- `MS_XSIGN`: the bit of the mouse button byte that holds the X sign. -/
  msXsign : Fin 8
  /-- `MS_YSIGN`: the bit of the mouse button byte that holds the Y sign. -/
  msYsign : Fin 8
  /-- `ERRCODE_VECTORS`: the vectors that carry an error code, as a list read as a set. -/
  errcodeVectors : List Byte
  /-- `EOI_CMD`: the end-of-interrupt command byte. -/
  eoiCmd : Byte
  deriving DecidableEq, Repr

/-- `UNSH[idx]` (rules R7, R75). -/
def Cfg.unshAt (c : Cfg) (idx : KeyIdx) : Byte := c.unsh[idx.toNat]'idx.isLt

/-- `SHF[idx]` (rules R7, R75). -/
def Cfg.shfAt (c : Cfg) (idx : KeyIdx) : Byte := c.shf[idx.toNat]'idx.isLt

/-- The five modifier key indices (rule R7). -/
def Cfg.modifiers (c : Cfg) : List KeyIdx :=
  [c.scLshift, c.scRshift, c.scCtrl, c.scAlt, c.scCaps]

/-- `CURSOR_CELL`: from a saved cell to the drawn cursor cell, (glyph, colour) to (glyph, colour).
OPEN (rule R7, D18): a free value, nothing constrains it (log 9). -/
opaque Config.cursorCell : Byte → Byte → Byte × Byte

/-- The byte PS2 answers to a read of port 0x60 when no answer is queued: draw number `n`, a free
value under no law (rules R3, R52, D38; log 7). -/
opaque Config.ps2Draw : Nat → Byte

/-- The (glyph, colour) DISP answers to a cell read when no answer is queued: draw number `n`, a
free value under no law (rules R3, R54, D38; log 8). -/
opaque Config.dispDraw : Nat → Byte × Byte

end Sys2Proof
end

