-- ==== Sys2Proof/Machine/Defaults.lean ====
section
/-! DEFINITION. The default configuration: the keymap of 41_keyboard.md rule R136, the default values
of 00_scope.md rule R7, and the check of a configuration, rule R8. -/

namespace Sys2Proof

/-- The default unshifted table `UNSH`, sixteen indices a line (rule R136). -/
def unshDefault : Vector Byte 128 :=
  #v[0x00, 0x1B, 0x31, 0x32, 0x33, 0x34, 0x35, 0x36, 0x37, 0x38, 0x39, 0x30, 0x2D, 0x3D, 0x08, 0x09,
    0x71, 0x77, 0x65, 0x72, 0x74, 0x79, 0x75, 0x69, 0x6F, 0x70, 0x5B, 0x5D, 0x0A, 0x00, 0x61, 0x73,
    0x64, 0x66, 0x67, 0x68, 0x6A, 0x6B, 0x6C, 0x3B, 0x27, 0x60, 0x00, 0x5C, 0x7A, 0x78, 0x63, 0x76,
    0x62, 0x6E, 0x6D, 0x2C, 0x2E, 0x2F, 0x00, 0x2A, 0x00, 0x20, 0x00, 0x00, 0x00, 0x00, 0x00, 0x00,
    0x00, 0x00, 0x00, 0x00, 0x00, 0x00, 0x00, 0x00, 0x00, 0x00, 0x2D, 0x00, 0x00, 0x00, 0x2B, 0x00,
    0x00, 0x00, 0x00, 0x00, 0x00, 0x00, 0x00, 0x00, 0x00, 0x00, 0x00, 0x00, 0x00, 0x00, 0x00, 0x00,
    0x00, 0x00, 0x00, 0x00, 0x00, 0x00, 0x00, 0x00, 0x00, 0x00, 0x00, 0x00, 0x00, 0x00, 0x00, 0x00,
    0x00, 0x00, 0x00, 0x00, 0x00, 0x00, 0x00, 0x00, 0x00, 0x00, 0x00, 0x00, 0x00, 0x00, 0x00, 0x00]

/-- The default shifted table `SHF`, sixteen indices a line (rule R136). -/
def shfDefault : Vector Byte 128 :=
  #v[0x00, 0x1B, 0x21, 0x40, 0x23, 0x24, 0x25, 0x5E, 0x26, 0x2A, 0x28, 0x29, 0x5F, 0x2B, 0x08, 0x09,
    0x51, 0x57, 0x45, 0x52, 0x54, 0x59, 0x55, 0x49, 0x4F, 0x50, 0x7B, 0x7D, 0x0A, 0x00, 0x41, 0x53,
    0x44, 0x46, 0x47, 0x48, 0x4A, 0x4B, 0x4C, 0x3A, 0x22, 0x7E, 0x00, 0x7C, 0x5A, 0x58, 0x43, 0x56,
    0x42, 0x4E, 0x4D, 0x3C, 0x3E, 0x3F, 0x00, 0x2A, 0x00, 0x20, 0x00, 0x00, 0x00, 0x00, 0x00, 0x00,
    0x00, 0x00, 0x00, 0x00, 0x00, 0x00, 0x00, 0x00, 0x00, 0x00, 0x2D, 0x00, 0x00, 0x00, 0x2B, 0x00,
    0x00, 0x00, 0x00, 0x00, 0x00, 0x00, 0x00, 0x00, 0x00, 0x00, 0x00, 0x00, 0x00, 0x00, 0x00, 0x00,
    0x00, 0x00, 0x00, 0x00, 0x00, 0x00, 0x00, 0x00, 0x00, 0x00, 0x00, 0x00, 0x00, 0x00, 0x00, 0x00,
    0x00, 0x00, 0x00, 0x00, 0x00, 0x00, 0x00, 0x00, 0x00, 0x00, 0x00, 0x00, 0x00, 0x00, 0x00, 0x00]

/-- The default `ERRCODE_VECTORS` (rule R7). -/
def errcodeVectorsDefault : List Byte := [8, 10, 11, 12, 13, 14, 17, 21, 29, 30]

/-- The default configuration of rule R7. `KBUF_N` is OPEN with default 256 (log 15). -/
def Cfg.default : Cfg where
  irqBase := 0x20
  kbufN := 256
  width := 80
  height := 25
  unsh := unshDefault
  shf := shfDefault
  scLshift := 0x2A
  scRshift := 0x36
  scCtrl := 0x1D
  scAlt := 0x38
  scCaps := 0x3A
  msXsign := 4
  msYsign := 5
  errcodeVectors := errcodeVectorsDefault
  eoiCmd := 0x20

/-- The constraints of rule R8 (the slave offset is `IRQ_BASE + 8` by construction, and the bit
positions are below 8 by their type). -/
def Cfg.ok (c : Cfg) : Bool :=
  decide (32 ≤ c.irqBase.toNat) && decide (c.irqBase.toNat + 15 ≤ 255) &&
  decide (c.irqBase.toNat % 8 = 0) && decide c.modifiers.Nodup &&
  c.modifiers.all (fun i => c.unshAt i == 0 && c.shfAt i == 0) &&
  decide (c.msXsign ≠ c.msYsign) && decide (4 ≤ c.msXsign.val) && decide (4 ≤ c.msYsign.val) &&
  decide (2 ≤ c.kbufN) && decide (c.kbufN ≤ 65536) &&
  decide (1 ≤ c.width) && decide (1 ≤ c.height)

end Sys2Proof
end

