-- ==== Sys2Proof/Syntax.lean ====
section
/-! DEFINITION. The operations of spec/opcode_table.json, one constructor for each of its 33 rows,
with the operands the operation rules give (41_keyboard.md, 40_dispatch.md, 42_mouse.md). -/

namespace Sys2Proof

/-- One operation of the block. The VEC8 operations carry the side values `err` and `cr2` that INT
delivers with the vector (30_encoding.md rule R72), also where rule R100 refuses their shape. -/
inductive Instr where
  -- SC8 (41_keyboard.md rules R138 to R149)
  | kbLshiftMake
  | kbRshiftMake
  | kbLshiftBreak
  | kbRshiftBreak
  | kbCtrlMake
  | kbCtrlBreak
  | kbAltMake
  | kbAltBreak
  | kbCapsMake
  | kbCapsBreak
  | kbKeyMake (idx : KeyIdx)
  | kbKeyBreak (idx : KeyIdx)
  -- VEC8 (40_dispatch.md rules R105 to R116)
  | intDe (err cr2 : Option Word32)
  | intDb (err cr2 : Option Word32)
  | intBp (err cr2 : Option Word32)
  | intDf (err cr2 : Option Word32)
  | intGp (err cr2 : Option Word32)
  | intPf (err cr2 : Option Word32)
  | intIrqTimer (err cr2 : Option Word32)
  | intIrqKbd (err cr2 : Option Word32)
  | intIrqMouse (err cr2 : Option Word32)
  | intIrqUnhandled (v : Byte) (err cr2 : Option Word32)
  | intExcUnhandled (v : Byte) (err cr2 : Option Word32)
  | intAbsent (v : Byte) (err cr2 : Option Word32)
  -- MW10 (42_mouse.md rules R180 to R184)
  | msSyncAccept (b : Byte)
  | msSyncDiscard (b : Byte)
  | msByte1 (b : Byte)
  | msByte2Complete (b : Byte)
  | msPhase3 (b : Byte)
  -- CON2 (41_keyboard.md rules R160 to R163)
  | conHasKey
  | conReadChar
  | conArm
  | conReserved
  deriving DecidableEq, Repr

/-- The format whose words the operation's row reads (30_encoding.md rules R79 to R82). -/
def Instr.format : Instr → Format
  | .kbLshiftMake | .kbRshiftMake | .kbLshiftBreak | .kbRshiftBreak | .kbCtrlMake
  | .kbCtrlBreak | .kbAltMake | .kbAltBreak | .kbCapsMake | .kbCapsBreak
  | .kbKeyMake _ | .kbKeyBreak _ => .sc8
  | .intDe _ _ | .intDb _ _ | .intBp _ _ | .intDf _ _ | .intGp _ _ | .intPf _ _
  | .intIrqTimer _ _ | .intIrqKbd _ _ | .intIrqMouse _ _ | .intIrqUnhandled _ _ _
  | .intExcUnhandled _ _ _ | .intAbsent _ _ _ => .vec8
  | .msSyncAccept _ | .msSyncDiscard _ | .msByte1 _ | .msByte2Complete _ | .msPhase3 _ => .mw10
  | .conHasKey | .conReadChar | .conArm | .conReserved => .con2

end Sys2Proof
end

