-- ==== Sys2Proof/WellFormed.lean ====
section
/-! DEFINITION. When an operation's operands are values its row of the opcode table can hold
(30_encoding.md rules R79 to R81), for a configuration. -/

namespace Sys2Proof

/-- A key index that is none of the five modifier indices (rules R148, R149). -/
def Cfg.plainKey (c : Cfg) (idx : KeyIdx) : Bool := !c.modifiers.contains idx

/-- A vector of the IRQ block `IRQ_BASE .. IRQ_BASE + 15` (rule R57). -/
def Cfg.irqVector (c : Cfg) (v : Byte) : Bool :=
  decide (c.irqBase.toNat ≤ v.toNat) && decide (v.toNat ≤ c.irqBase.toNat + 15)

/-- The six exception vectors with a route of their own (rule R80). -/
def handledExceptions : List Byte := [0, 1, 3, 8, 13, 14]

/-- The operands an operation's row admits:
- `KB_KEY_MAKE`, `KB_KEY_BREAK`: an index that is no modifier's (R148, R149);
- `INT_IRQ_UNHANDLED`: an IRQ vector other than offsets 0, 1 and 12 (R114);
- `INT_EXC_UNHANDLED`: an exception vector other than the six handled (R115);
- `INT_ABSENT`: a vector outside 0 to 31 and outside the IRQ block (R116);
- `MS_SYNC_ACCEPT`, `MS_SYNC_DISCARD`: a byte with the marker bit set, clear (R180, R181).
Side values of any shape are well formed: rule R100 refuses them when the request is taken. -/
def Instr.wf (c : Cfg) : Instr → Bool
  | .kbKeyMake idx => c.plainKey idx
  | .kbKeyBreak idx => c.plainKey idx
  | .intIrqUnhandled v _ _ =>
      c.irqVector v && decide (v.toNat ≠ c.irqBase.toNat) &&
      decide (v.toNat ≠ c.irqBase.toNat + 1) && decide (v.toNat ≠ c.irqBase.toNat + 12)
  | .intExcUnhandled v _ _ => decide (v.toNat ≤ 31) && !handledExceptions.contains v
  | .intAbsent v _ _ => decide (31 < v.toNat) && !c.irqVector v
  | .msSyncAccept b => b.getLsbD 3
  | .msSyncDiscard b => !b.getLsbD 3
  | .kbLshiftMake | .kbRshiftMake | .kbLshiftBreak | .kbRshiftBreak | .kbCtrlMake
  | .kbCtrlBreak | .kbAltMake | .kbAltBreak | .kbCapsMake | .kbCapsBreak => true
  | .intDe _ _ | .intDb _ _ | .intBp _ _ | .intDf _ _ | .intGp _ _ | .intPf _ _
  | .intIrqTimer _ _ | .intIrqKbd _ _ | .intIrqMouse _ _ => true
  | .msByte1 _ | .msByte2Complete _ | .msPhase3 _ => true
  | .conHasKey | .conReadChar | .conArm | .conReserved => true

end Sys2Proof
end

