-- ==== Sys2Proof/Decode.lean ====
section
/-! DEFINITION. The decoder of the four formats, total on every word (30_encoding.md rules R78 to
R82), the encoder beside it, the opcode table as rows of mask and match (rule R78), and the host's
reading of a bare table word. -/

namespace Sys2Proof

/-- The twelve rows of the SC8 map (rule R79). -/
inductive Sc8Row where
  | lshiftMake
  | rshiftMake
  | lshiftBreak
  | rshiftBreak
  | ctrlMake
  | ctrlBreak
  | altMake
  | altBreak
  | capsMake
  | capsBreak
  | keyMake
  | keyBreak
  deriving DecidableEq, Repr

/-- The results of the route function, the twelve rows of the VEC8 map (rules R80, R104). -/
inductive Route where
  | de
  | db
  | bp
  | df
  | gp
  | pf
  | timer
  | kbd
  | mouse
  | irqUnhandled
  | excUnhandled
  | absent
  deriving DecidableEq, Repr

/-- The five rows of the MW10 map (rule R81). -/
inductive Mw10Row where
  | syncAccept
  | syncDiscard
  | byte1
  | byte2Complete
  | phase3
  deriving DecidableEq, Repr

/-- `rel = sc[7]` (rules R71, R75). -/
def scReleased (sc : Byte) : Bool := sc.getLsbD 7

/-- `idx = sc[6:0]` (rules R71, R75). -/
def scIdx (sc : Byte) : KeyIdx := sc.setWidth 7

/-- The make code of a key index: `rel = 0` (rule R71). -/
def makeCode (idx : KeyIdx) : Byte := idx.setWidth 8

/-- The break code of a key index: `rel = 1` (rule R71). -/
def breakCode (idx : KeyIdx) : Byte := idx.setWidth 8 ||| 0x80

/-- `phase ++ b` (rule R73). -/
def mouseWord (ph : BitVec 2) (b : Byte) : BitVec 10 := ph ++ b

/-- The `ph` field of an MW10 word (rule R73). -/
def mwPhase (w : BitVec 10) : BitVec 2 := w.extractLsb' 8 2

/-- The `b` field of an MW10 word (rule R73). -/
def mwByte (w : BitVec 10) : Byte := w.setWidth 8

/-- The SC8 map (rule R79). -/
def sc8Row (c : Cfg) (sc : Byte) : Sc8Row :=
  if scReleased sc then
    if scIdx sc = c.scLshift then .lshiftBreak
    else if scIdx sc = c.scRshift then .rshiftBreak
    else if scIdx sc = c.scCtrl then .ctrlBreak
    else if scIdx sc = c.scAlt then .altBreak
    else if scIdx sc = c.scCaps then .capsBreak
    else .keyBreak
  else
    if scIdx sc = c.scLshift then .lshiftMake
    else if scIdx sc = c.scRshift then .rshiftMake
    else if scIdx sc = c.scCtrl then .ctrlMake
    else if scIdx sc = c.scAlt then .altMake
    else if scIdx sc = c.scCaps then .capsMake
    else .keyMake

/-- The route function, a total lookup on the 256 vectors (rule R104; the VEC8 map by class test,
rule R80). -/
def route (c : Cfg) (v : Byte) : Route :=
  if v.toNat = 0 then .de
  else if v.toNat = 1 then .db
  else if v.toNat = 3 then .bp
  else if v.toNat = 8 then .df
  else if v.toNat = 13 then .gp
  else if v.toNat = 14 then .pf
  else if v.toNat = c.irqBase.toNat then .timer
  else if v.toNat = c.irqBase.toNat + 1 then .kbd
  else if v.toNat = c.irqBase.toNat + 12 then .mouse
  else if c.irqBase.toNat ≤ v.toNat ∧ v.toNat ≤ c.irqBase.toNat + 15 then .irqUnhandled
  else if v.toNat ≤ 31 then .excUnhandled
  else .absent

/-- The IRQ classes of rule R100: TIMER, KBD, MOUSE and IRQ_UNHANDLED. -/
def Route.isIrq : Route → Bool
  | .timer | .kbd | .mouse | .irqUnhandled => true
  | .de | .db | .bp | .df | .gp | .pf | .excUnhandled | .absent => false

/-- The MW10 map (rule R81): the phase, then at phase 0 the marker bit `b[3]`. -/
def mw10Row (ph : BitVec 2) (b : Byte) : Mw10Row :=
  if ph = 0 then
    if b.getLsbD 3 then .syncAccept else .syncDiscard
  else if ph = 1 then .byte1
  else if ph = 2 then .byte2Complete
  else .phase3

/-- The operation of an SC8 row, with its operand `idx` (rule R75). -/
def Sc8Row.instr (idx : KeyIdx) : Sc8Row → Instr
  | .lshiftMake => .kbLshiftMake
  | .rshiftMake => .kbRshiftMake
  | .lshiftBreak => .kbLshiftBreak
  | .rshiftBreak => .kbRshiftBreak
  | .ctrlMake => .kbCtrlMake
  | .ctrlBreak => .kbCtrlBreak
  | .altMake => .kbAltMake
  | .altBreak => .kbAltBreak
  | .capsMake => .kbCapsMake
  | .capsBreak => .kbCapsBreak
  | .keyMake => .kbKeyMake idx
  | .keyBreak => .kbKeyBreak idx

/-- The operation of a route, with the vector and the side values (rules R72, R80). -/
def Route.instr (v : Byte) (err cr2 : Option Word32) : Route → Instr
  | .de => .intDe err cr2
  | .db => .intDb err cr2
  | .bp => .intBp err cr2
  | .df => .intDf err cr2
  | .gp => .intGp err cr2
  | .pf => .intPf err cr2
  | .timer => .intIrqTimer err cr2
  | .kbd => .intIrqKbd err cr2
  | .mouse => .intIrqMouse err cr2
  | .irqUnhandled => .intIrqUnhandled v err cr2
  | .excUnhandled => .intExcUnhandled v err cr2
  | .absent => .intAbsent v err cr2

/-- The operation of an MW10 row, with the byte (rule R73). -/
def Mw10Row.instr (b : Byte) : Mw10Row → Instr
  | .syncAccept => .msSyncAccept b
  | .syncDiscard => .msSyncDiscard b
  | .byte1 => .msByte1 b
  | .byte2Complete => .msByte2Complete b
  | .phase3 => .msPhase3 b

/-- The CON2 map (rules R74, R82). -/
def decodeCon2 (op : BitVec 2) : Instr :=
  if op = 0 then .conHasKey
  else if op = 1 then .conReadChar
  else if op = 2 then .conArm
  else .conReserved

/-- The decoder. It is total: every word of every format is an operation (rule R78), the refused
ones (`INT_ABSENT`, `CON_RESERVED`) and the illegal one (`MS_PHASE3`) among them (rule R83). -/
def decode (c : Cfg) : InputWord → Instr
  | .sc8 sc => (sc8Row c sc).instr (scIdx sc)
  | .vec8 v err cr2 => (route c v).instr v err cr2
  | .mw10 w => (mw10Row (mwPhase w) (mwByte w)).instr (mwByte w)
  | .con2 op => decodeCon2 op

/-- The encoder: the input word of an operation (rules R71 to R74, R79 to R82). -/
def encode (c : Cfg) : Instr → InputWord
  | .kbLshiftMake => .sc8 (makeCode c.scLshift)
  | .kbRshiftMake => .sc8 (makeCode c.scRshift)
  | .kbLshiftBreak => .sc8 (breakCode c.scLshift)
  | .kbRshiftBreak => .sc8 (breakCode c.scRshift)
  | .kbCtrlMake => .sc8 (makeCode c.scCtrl)
  | .kbCtrlBreak => .sc8 (breakCode c.scCtrl)
  | .kbAltMake => .sc8 (makeCode c.scAlt)
  | .kbAltBreak => .sc8 (breakCode c.scAlt)
  | .kbCapsMake => .sc8 (makeCode c.scCaps)
  | .kbCapsBreak => .sc8 (breakCode c.scCaps)
  | .kbKeyMake idx => .sc8 (makeCode idx)
  | .kbKeyBreak idx => .sc8 (breakCode idx)
  | .intDe err cr2 => .vec8 0 err cr2
  | .intDb err cr2 => .vec8 1 err cr2
  | .intBp err cr2 => .vec8 3 err cr2
  | .intDf err cr2 => .vec8 8 err cr2
  | .intGp err cr2 => .vec8 13 err cr2
  | .intPf err cr2 => .vec8 14 err cr2
  | .intIrqTimer err cr2 => .vec8 c.irqBase err cr2
  | .intIrqKbd err cr2 => .vec8 (c.irqBase + 1) err cr2
  | .intIrqMouse err cr2 => .vec8 (c.irqBase + 12) err cr2
  | .intIrqUnhandled v err cr2 => .vec8 v err cr2
  | .intExcUnhandled v err cr2 => .vec8 v err cr2
  | .intAbsent v err cr2 => .vec8 v err cr2
  | .msSyncAccept b => .mw10 (mouseWord 0 b)
  | .msSyncDiscard b => .mw10 (mouseWord 0 b)
  | .msByte1 b => .mw10 (mouseWord 1 b)
  | .msByte2Complete b => .mw10 (mouseWord 2 b)
  | .msPhase3 b => .mw10 (mouseWord 3 b)
  | .conHasKey => .con2 0
  | .conReadChar => .con2 1
  | .conArm => .con2 2
  | .conReserved => .con2 3

/-! ### The opcode table -/

/-- Which row of the opcode table: a format and, in it, a row of that format's map. -/
inductive RowId where
  | sc8 (r : Sc8Row)
  | vec8 (r : Route)
  | mw10 (r : Mw10Row)
  | con2 (op : BitVec 2)
  deriving DecidableEq, Repr

/-- The format of a row. -/
def RowId.format : RowId → Format
  | .sc8 _ => .sc8
  | .vec8 _ => .vec8
  | .mw10 _ => .mw10
  | .con2 _ => .con2

/-- One row of spec/opcode_table.json: it matches a word `w` of its format when
`(w &&& mask) = pat` (rule R78). -/
structure Row where
  id : RowId
  pat : BitVec 10
  mask : BitVec 10
  deriving DecidableEq, Repr

/-- The SC8 rows for a configuration's modifier codes (rules R78, R79). -/
def sc8Rows (c : Cfg) : List Row :=
  let make r idx := Row.mk (.sc8 r) ((makeCode idx).setWidth 10) 0xFF
  let brk r idx := Row.mk (.sc8 r) ((breakCode idx).setWidth 10) 0xFF
  [make .lshiftMake c.scLshift, make .rshiftMake c.scRshift,
   brk .lshiftBreak c.scLshift, brk .rshiftBreak c.scRshift,
   make .ctrlMake c.scCtrl, brk .ctrlBreak c.scCtrl,
   make .altMake c.scAlt, brk .altBreak c.scAlt,
   make .capsMake c.scCaps, brk .capsBreak c.scCaps,
   ⟨.sc8 .keyMake, 0x00, 0x80⟩, ⟨.sc8 .keyBreak, 0x80, 0x80⟩]

/-- The VEC8 rows for an `IRQ_BASE` that is a multiple of 16: the table's IRQ rows, written for
0x20, moved by `IRQ_BASE - 0x20` (rule R78). -/
def vec8Rows (c : Cfg) : List Row :=
  let irq r (pat mask : BitVec 10) := Row.mk (.vec8 r) (pat + (c.irqBase.setWidth 10 - 0x20)) mask
  [⟨.vec8 .de, 0x00, 0xFF⟩, ⟨.vec8 .db, 0x01, 0xFF⟩, ⟨.vec8 .bp, 0x03, 0xFF⟩,
   ⟨.vec8 .df, 0x08, 0xFF⟩, ⟨.vec8 .gp, 0x0D, 0xFF⟩, ⟨.vec8 .pf, 0x0E, 0xFF⟩,
   irq .timer 0x20 0xFF, irq .kbd 0x21 0xFF, irq .mouse 0x2C 0xFF, irq .irqUnhandled 0x20 0xF0,
   ⟨.vec8 .excUnhandled, 0x00, 0xE0⟩, ⟨.vec8 .absent, 0x00, 0x00⟩]

/-- The MW10 rows (rule R81). -/
def mw10Rows : List Row :=
  [⟨.mw10 .syncAccept, 0x008, 0x308⟩, ⟨.mw10 .syncDiscard, 0x000, 0x308⟩,
   ⟨.mw10 .byte1, 0x100, 0x300⟩, ⟨.mw10 .byte2Complete, 0x200, 0x300⟩,
   ⟨.mw10 .phase3, 0x300, 0x300⟩]

/-- The CON2 rows (rules R74, R82). -/
def con2Rows : List Row :=
  [⟨.con2 0, 0x0, 0x3⟩, ⟨.con2 1, 0x1, 0x3⟩, ⟨.con2 2, 0x2, 0x3⟩, ⟨.con2 3, 0x3, 0x3⟩]

/-- Step 1 of rule R78: the rows whose format is the word's. -/
def tableRows (c : Cfg) : Format → List Row
  | .sc8 => sc8Rows c
  | .vec8 => vec8Rows c
  | .mw10 => mw10Rows
  | .con2 => con2Rows

/-- Step 2 of rule R78: the row matches the word. -/
def Row.hits (r : Row) (w : BitVec 10) : Bool := w &&& r.mask == r.pat

/-- The number of 1 bits of a mask. -/
def maskOnes (m : BitVec 10) : Nat :=
  (List.range 10).countP fun i => m.getLsbD i

/-- Steps 2 and 3 of rule R78: of the rows that match, the one whose mask has the most 1 bits. -/
def mostSpecific : List Row → BitVec 10 → Option Row
  | [], _ => none
  | r :: rs, w =>
    match mostSpecific rs w with
    | some q => if r.hits w && decide (maskOnes q.mask ≤ maskOnes r.mask) then some r else some q
    | none => if r.hits w then some r else none

/-- The row an operation stands for. -/
def Instr.row : Instr → RowId
  | .kbLshiftMake => .sc8 .lshiftMake
  | .kbRshiftMake => .sc8 .rshiftMake
  | .kbLshiftBreak => .sc8 .lshiftBreak
  | .kbRshiftBreak => .sc8 .rshiftBreak
  | .kbCtrlMake => .sc8 .ctrlMake
  | .kbCtrlBreak => .sc8 .ctrlBreak
  | .kbAltMake => .sc8 .altMake
  | .kbAltBreak => .sc8 .altBreak
  | .kbCapsMake => .sc8 .capsMake
  | .kbCapsBreak => .sc8 .capsBreak
  | .kbKeyMake _ => .sc8 .keyMake
  | .kbKeyBreak _ => .sc8 .keyBreak
  | .intDe _ _ => .vec8 .de
  | .intDb _ _ => .vec8 .db
  | .intBp _ _ => .vec8 .bp
  | .intDf _ _ => .vec8 .df
  | .intGp _ _ => .vec8 .gp
  | .intPf _ _ => .vec8 .pf
  | .intIrqTimer _ _ => .vec8 .timer
  | .intIrqKbd _ _ => .vec8 .kbd
  | .intIrqMouse _ _ => .vec8 .mouse
  | .intIrqUnhandled _ _ _ => .vec8 .irqUnhandled
  | .intExcUnhandled _ _ _ => .vec8 .excUnhandled
  | .intAbsent _ _ _ => .vec8 .absent
  | .msSyncAccept _ => .mw10 .syncAccept
  | .msSyncDiscard _ => .mw10 .syncDiscard
  | .msByte1 _ => .mw10 .byte1
  | .msByte2Complete _ => .mw10 .byte2Complete
  | .msPhase3 _ => .mw10 .phase3
  | .conHasKey => .con2 0
  | .conReadChar => .con2 1
  | .conArm => .con2 2
  | .conReserved => .con2 3

/-! ### The host's table words -/

/-- The side values that fit a vector, all zero: present exactly where rule R72 says so. -/
def zeroSideValues (c : Cfg) (v : Byte) : Option Word32 × Option Word32 :=
  (if c.errcodeVectors.contains v then some 0 else none, if v = 14 then some 0 else none)

/-- The format in which the host's bare word of 8 bits is read. Rule R70 says the bits do not tell
the format, so this is no rule of the spec but the model's reading for the host's check (log 16): a
word whose six high bits are 0 is a CON2 word; of the SC8 and VEC8 rows that match any other word,
the one with the most mask bits gives the format. -/
def byteFormat (w : BitVec 10) : Format :=
  if w.toNat < 4 then .con2
  else match mostSpecific (sc8Rows Cfg.default ++ vec8Rows Cfg.default) w with
    | some r => r.id.format
    | none => .sc8

/-- The input word the host's numbered word stands for, in the default configuration: at most 2
bits CON2, at most 8 bits by `byteFormat`, at most 16 bits MW10 (log 16). -/
def tableWord (nbits w : Nat) : Option InputWord :=
  if 2 ^ nbits ≤ w then none
  else if nbits ≤ 2 then some (.con2 (BitVec.ofNat 2 w))
  else if nbits ≤ 8 then
    match byteFormat (BitVec.ofNat 10 w) with
    | .sc8 => some (.sc8 (BitVec.ofNat 8 w))
    | .vec8 =>
      let v : Byte := BitVec.ofNat 8 w
      some (.vec8 v (zeroSideValues Cfg.default v).1 (zeroSideValues Cfg.default v).2)
    | .mw10 => none
    | .con2 => some (.con2 (BitVec.ofNat 2 w))
  else if w < 1024 then some (.mw10 (BitVec.ofNat 10 w))
  else none

/-- The operation the decoder reads from the host's numbered word (log 16). -/
def decodeTableWord (nbits w : Nat) : Option Instr :=
  (tableWord nbits w).map (decode Cfg.default)

end Sys2Proof
end

