-- ==== Sys2Proof/Machine/State.lean ====
section
/-! DEFINITION. The block's state (10_state.md), the agents' inputs and the trace a step reads and
writes, the reasons a step stops, and the state after reset (70_reset_and_hazards.md rule R240). -/

namespace Sys2Proof.Machine

/-- The router's state (rule R22). The fourth value of its 2-bit encoding is never written, so it
has no constructor. -/
inductive Mode where
  | idle
  | handling
  | halted
  deriving DecidableEq, Repr

/-- The spec's 2-bit encoding of the router's state (rule R22). -/
def Mode.code : Mode → BitVec 2
  | .idle => 0
  | .handling => 1
  | .halted => 2

/-- The consumer's progress through a command (rule R45). -/
inductive ConState where
  | ready
  | preHlt
  | asleep
  | retry
  deriving DecidableEq, Repr

/-- The `info` of a report (40_dispatch.md rules R103, R105 to R110; 60_exceptions.md rule R211):
the error code and the fault address, each where the route reports it. Both absent is `NONE`. -/
structure Info where
  err : Option Word32
  cr2 : Option Word32
  deriving DecidableEq, Repr

/-- The kinds of a handled exception's report (rules R105 to R110). -/
inductive ReportKind where
  | divideByZero
  | debug
  | breakpoint
  | doubleFault
  | generalProtection
  | pageFault
  deriving DecidableEq, Repr

/-- The events of 00_scope.md rule R12. -/
inductive Event where
  /-- `IN(p, b)` -/
  | input (p : Port) (b : Byte)
  /-- `OUT(p, v)` -/
  | output (p : Port) (v : Byte)
  /-- `DREAD(x, y)` -/
  | dread (x y : Int)
  /-- `DWRITE(x, y, g, c)` -/
  | dwrite (x y : Int) (g c : Byte)
  /-- `LOG(UNHANDLED, v, err)` -/
  | log (v : Byte) (err : Option Word32)
  /-- `REPORT(kind, v, info)` -/
  | report (kind : ReportKind) (v : Byte) (info : Info)
  /-- `TICK` -/
  | tick
  /-- `MOUSE(dx, dy, buttons)` -/
  | mouse (dx dy : Int) (buttons : BitVec 3)
  /-- `READ(c)` -/
  | read (c : Byte)
  /-- `HALT(kind)` -/
  | halt (kind : ReportKind)
  deriving DecidableEq, Repr

/-- The names of the model faults of 60_exceptions.md rule R213. -/
inductive FaultName where
  | mousePhase3
  | nestedException
  deriving DecidableEq, Repr

/-- `faults`, the set of model fault names raised so far, one bit a name (rules R11, R26, R213). -/
structure FaultSet where
  mousePhase3 : Bool
  nestedException : Bool
  deriving DecidableEq, Repr

/-- The keyboard modifier bits (rules R27 to R30). -/
structure KMod where
  shift : Bool
  ctrl : Bool
  alt : Bool
  caps : Bool
  capsDown : Bool
  deriving DecidableEq, Repr

/-- The key buffer's array `KB` as cells (slot, character) in canonical form: slots strictly rising,
no slot listed with the value an unlisted slot reads as (rule R33). -/
abbrev Memory := List Host.Cell

/-- What a slot of `KB` reads as that nothing has written. The spec leaves it open (rule R33):
DESIGN CHOICE 0, the null character, which rule R13 never lets a rule store (log 10). -/
def unlistedByte : Byte := 0

/-- The key buffer (rules R33, R34): `head` is the next slot to write, `tail` the next to read. -/
structure KeyBuffer where
  cells : Memory
  head : Nat
  tail : Nat
  deriving DecidableEq, Repr

/-- The mouse packet assembler (rules R36 to R38). -/
structure Mouse where
  phase : BitVec 2
  pkt0 : Byte
  pkt1 : Byte
  pkt2 : Byte
  buttons : BitVec 3
  deriving DecidableEq, Repr

/-- The cursor position and the saved cell (rules R39, R40). -/
structure Cursor where
  x : Int
  y : Int
  savedValid : Bool
  savedX : Int
  savedY : Int
  savedG : Byte
  savedC : Byte
  deriving DecidableEq, Repr

/-- What an agent that starts steps offers the block (rules R3, R21): INT a dispatch request with
its side values, CON a command. -/
inductive Offer where
  | int (v : Byte) (err cr2 : Option Word32)
  | con (op : BitVec 2)
  deriving DecidableEq, Repr

/-- The agents' side, which is the model's own and no state of the block (rule R43): the offers of
INT and CON, oldest first (log 3); the queued answers of PS2 to reads of port 0x60 (log 7) and of
DISP to cell reads (log 8), oldest first; and how many answers were free draws (logs 7, 8). -/
structure Agents where
  inputs : List Offer
  ps2 : List Byte
  disp : List (Byte × Byte)
  draws : Nat
  deriving DecidableEq, Repr

/-- The machine's state: the registers of 10_state.md, the configuration they live in, the trace of
events, what HAS_KEY last returned, and the agents' side. -/
structure State where
  /-- The configuration (rule R7); no step writes it (rule R42; log 1). -/
  cfg : Cfg
  /-- `mode` (rule R22). -/
  mode : Mode
  /-- `armed` (rule R23). -/
  armed : Bool
  /-- `cur_vector` (rule R24). -/
  curVector : Byte
  /-- `cur_err` (rule R24). -/
  curErr : Option Word32
  /-- `halt_reason` (rule R25). -/
  haltReason : Option (Byte × Info)
  /-- `faults` (rule R26). -/
  faults : FaultSet
  /-- `shift`, `ctrl`, `alt`, `caps`, `caps_down` (rules R27 to R30). -/
  kmod : KMod
  /-- `KB`, `head`, `tail` (rules R33, R34). -/
  kb : KeyBuffer
  /-- `phase`, `pkt`, `buttons` (rules R36 to R38). -/
  mouse : Mouse
  /-- `cur_x`, `cur_y` and the saved cell (rules R39, R40). -/
  cursor : Cursor
  /-- `con_state` (rule R45). -/
  conState : ConState
  /-- The trace of events, oldest first (rule R12; log 14). -/
  trace : List Event
  /-- What the last HAS_KEY returned to CON (rule R160): the model's own latch (log 13). -/
  hasKeyReply : Option Bool
  /-- The agents' side (logs 3, 7, 8). -/
  agents : Agents
  deriving DecidableEq, Repr

/-- The reasons the machine stops with a fault of the model. Both are safe: the hardware has no such
access, and no state that meets the invariant of rule R41 makes one (log 12). -/
inductive Fault where
  /-- Raised by `enqueue` (KB_KEY_MAKE) and `readSlot` (CON_READ_CHAR) for a slot outside
  `0 .. KBUF_N - 1`, which rule R33 says does not exist. Safe. -/
  | keyBufferSlot
  /-- Raised by `redraw` (MS_BYTE2_COMPLETE) for a cell outside the display cell space of rule R58.
  Safe. -/
  | displayCell
  deriving DecidableEq, Repr

/-- The inputs the model gives no meaning (60_exceptions.md rule R212), and the host's reason for an
instruction not modelled. -/
inductive Refusal where
  /-- Answered by an arm of `exec` that has no meaning yet: none. Safe. -/
  | notModelled (mnemonic : String)
  /-- `ABSENT_VECTOR`: raised by every VEC8 operation whose vector has no present gate (rules R100,
  R116). Safe: the router never receives such a vector. -/
  | absentVector
  /-- `SIDE_VALUE_SHAPE`: raised by every VEC8 operation whose side values do not fit its vector
  (rule R100). Safe: a malformed INT agent, not hardware behaviour. -/
  | sideValueShape
  /-- `RESERVED_CON`: raised by CON_RESERVED (rule R163). Safe: there is no such command. -/
  | reservedCon
  /-- `BAD_CONFIG`: raised by `step` and `resetWith` for a configuration that breaks rule R8
  (rules R212, R240). Safe: no hardware has it. -/
  | badConfig
  deriving DecidableEq, Repr

/-- The outcome of an operation. -/
abbrev Result := Host.Outcome State Fault Refusal

/-- The reset state of a configuration (70_reset_and_hazards.md rule R240; 10_state.md's rule for
each register). Where the spec leaves a value unspecified: KB nothing written (log 10), the saved
cell 0 (log 11). -/
def State.init (c : Cfg) : State where
  cfg := c
  mode := .idle
  armed := false
  curVector := 0
  curErr := none
  haltReason := none
  faults := ⟨false, false⟩
  kmod := ⟨false, false, false, false, false⟩
  kb := ⟨[], 0, 0⟩
  mouse := ⟨0, 0, 0, 0, 0⟩
  cursor :=
    { x := (c.width / 2 : Nat), y := (c.height / 2 : Nat), savedValid := false
      savedX := 0, savedY := 0, savedG := 0, savedC := 0 }
  conState := .ready
  trace := []
  hasKeyReply := none
  agents := ⟨[], [], [], 0⟩

/-- The machine right after reset, in the default configuration (rules R7, R240). -/
def State.reset : State := State.init Cfg.default

end Sys2Proof.Machine
end

