-- ==== Sys2Proof/Machine/Ops.lean ====
section
/-! DEFINITION. The named operations over the state: the primitives of 00_scope.md rule R11, the key
buffer's array and its Enqueue (41_keyboard.md rule R135), and the common dispatch steps, taking an
exception or interrupt and returning from it (40_dispatch.md rules R100 to R103, R117). -/

namespace Sys2Proof.Machine

/-! ### Outcomes in sequence -/

/-- Run the second operation on the first one's next state. A fault or a refusal ends the step, and
nothing of it remains (rule R219: a step either runs whole or not at all). -/
def andThen (r : Result) (f : State → Result) : Result :=
  match r with
  | .next s => f s
  | .fault e => .fault e
  | .refused e => .refused e

/-- The step that is not taken: `hold`, and the 'no step' of a halted block, change nothing
(rules R11, R12, R118; log 2). -/
def noStep (s : State) : Result := .next s

/-! ### The key buffer's array -/

/-- The value of slot `a` (rule R11 `KB[i]`). -/
def Memory.read : Memory → Nat → Byte
  | [], _ => unlistedByte
  | (k, x) :: m, a => if a = k then x else Memory.read m a

/-- Write `v` to slot `a` (rule R11 `KB[i] <- c`), keeping the canonical form. -/
def Memory.write : Memory → Nat → Byte → Memory
  | [], a, v => if v = unlistedByte then [] else [(a, v)]
  | (k, x) :: m, a, v =>
    if a < k then (if v = unlistedByte then (k, x) :: m else (a, v) :: (k, x) :: m)
    else if a = k then (if v = unlistedByte then m else (a, v) :: m)
    else (k, x) :: Memory.write m a v

/-- The canonical form: slots strictly rising, and no slot listed with what an unlisted one reads. -/
def Memory.wf : Memory → Bool
  | [] => true
  | (k, x) :: m => decide (x ≠ unlistedByte) && m.all (fun cell => decide (k < cell.1)) && Memory.wf m

/-- Every listed slot is below `n`: the array has the slots `0 .. n - 1` (rule R33). -/
def Memory.below (m : Memory) (n : Nat) : Bool := m.all fun cell => decide (cell.1 < n)

/-- `count = (head - tail) mod KBUF_N` (rule R35). -/
def KeyBuffer.count (k : KeyBuffer) (n : Nat) : Nat := (k.head + n - k.tail) % n

/-- `empty` (rule R35). -/
def KeyBuffer.empty (k : KeyBuffer) : Bool := decide (k.head = k.tail)

/-- `full` (rule R35). -/
def KeyBuffer.full (k : KeyBuffer) (n : Nat) : Bool := decide ((k.head + 1) % n = k.tail)

/-- `Enqueue(c)` (rule R135): dropped silently when the buffer is full. A write to a slot outside
the array faults (log 12). -/
def enqueue (ch : Byte) (s : State) : Result :=
  if s.kb.full s.cfg.kbufN then .next s
  else if s.kb.head < s.cfg.kbufN then
    .next { s with kb := { cells := s.kb.cells.write s.kb.head ch
                           head := (s.kb.head + 1) % s.cfg.kbufN
                           tail := s.kb.tail } }
  else .fault .keyBufferSlot

/-! ### Events, ports and display cells -/

/-- `Emit(e)`: append an event to the trace (rules R11, R12). -/
def emit (e : Event) (s : State) : State := { s with trace := s.trace ++ [e] }

/-- The PS2 agent's next answer: the oldest queued one, else a free draw (rules R3, R52; log 7). -/
def ps2Answer (a : Agents) : Byte × Agents :=
  match a.ps2 with
  | b :: rest => (b, { a with ps2 := rest })
  | [] => (Config.ps2Draw a.draws, { a with draws := a.draws + 1 })

/-- The DISP agent's next answer: the oldest queued one, else a free draw (rules R3, R54; log 8). -/
def dispAnswer (a : Agents) : (Byte × Byte) × Agents :=
  match a.disp with
  | gc :: rest => (gc, { a with disp := rest })
  | [] => (Config.dispDraw a.draws, { a with draws := a.draws + 1 })

/-- The byte a read of the PS/2 data port would return now. -/
def ps2Byte (s : State) : Byte := (ps2Answer s.agents).1

/-- The state after `PortIn(p)` (rule R11): the agent's answer is taken and `IN(p, b)` recorded; the
byte read is `ps2Byte` of the state before. -/
def portIn (p : Port) (s : State) : State :=
  emit (.input p (ps2Byte s)) { s with agents := (ps2Answer s.agents).2 }

/-- `PortOut(p, v)` (rule R11): the write is an event and has no other effect (rule R53). -/
def portOut (p : Port) (v : Byte) (s : State) : State := emit (.output p v) s

/-- The PS/2 data port (rule R56). -/
def ps2Port : Port := 0x60

/-- The master PIC's command port (rule R56). -/
def masterPort : Port := 0x20

/-- The slave PIC's command port (rule R56). -/
def slavePort : Port := 0xA0

/-- A cell of the display cell space (rule R58). -/
def inDisplay (c : Cfg) (x y : Int) : Bool :=
  decide (0 ≤ x) && decide (x < c.width) && decide (0 ≤ y) && decide (y < c.height)

/-- The (glyph, colour) a read of a display cell would return now. -/
def dispCell (s : State) : Byte × Byte := (dispAnswer s.agents).1

/-- The state after `DispRead(x, y)` (rule R11): the agent's answer is taken and `DREAD(x, y)`
recorded; the pair read is `dispCell` of the state before. -/
def dispRead (x y : Int) (s : State) : State :=
  emit (.dread x y) { s with agents := (dispAnswer s.agents).2 }

/-- `DispWrite(x, y, g, c)` (rule R11). -/
def dispWrite (x y : Int) (g c : Byte) (s : State) : State := emit (.dwrite x y g c) s

/-! ### Model faults -/

/-- A fault name added to the set (rule R26). -/
def FaultSet.add (f : FaultSet) : FaultName → FaultSet
  | .mousePhase3 => { f with mousePhase3 := true }
  | .nestedException => { f with nestedException := true }

/-- `raise Fault(name)` (rules R11, R26, R213): the fault's bit is set, never cleared, and nothing
else of the step remains. The run goes on (rule R263; log 5). -/
def raiseFault (f : FaultName) (s : State) : Result := .next { s with faults := s.faults.add f }

/-! ### Taking an exception or interrupt, and returning -/

/-- The side values do not fit the vector (rules R72, R100). -/
def badSideValues (c : Cfg) (v : Byte) (err cr2 : Option Word32) : Bool :=
  (err.isSome != c.errcodeVectors.contains v) || (cr2.isSome != decide (v = 14))

/-- `Admit(v, err, cr2)` and then the route's rule (rule R100), the checks in the rule's order.
A request while the router is HANDLING, which no atomic step leaves behind, is held when it is an
IRQ's and is the fault NESTED_EXCEPTION when it is an exception's (rules R119, R220, R257; log 6). -/
def whenAdmitted (v : Byte) (err cr2 : Option Word32) (run : State → Result) (s : State) : Result :=
  if s.mode = .halted then noStep s
  else if route s.cfg v = .absent then .refused .absentVector
  else if badSideValues s.cfg v err cr2 then .refused .sideValueShape
  else if (route s.cfg v).isIrq && !s.armed then noStep s
  else if s.mode = .handling then
    if (route s.cfg v).isIrq then noStep s else raiseFault .nestedException s
  else run s

/-- `Enter(v, err)` (rule R101): taking an exception or interrupt. The vector and the error code are
saved and the mode becomes HANDLING, which masks interrupts. -/
def enter (v : Byte) (err : Option Word32) (s : State) : State :=
  { s with mode := .handling, curVector := v, curErr := err }

/-- The consumer's wait ends when a dispatch returns (rules R45, R102). -/
def ConState.wake : ConState → ConState
  | .asleep => .retry
  | .ready => .ready
  | .preHlt => .preHlt
  | .retry => .retry

/-- `Return()` (rule R102): the return from the dispatch. -/
def ret (s : State) : State := { s with mode := .idle, conState := s.conState.wake }

/-- `halt(r)` (rule R11). -/
def halt (kind : ReportKind) (s : State) : State := emit (.halt kind) { s with mode := .halted }

/-- `HaltReport(kind, info)` (rule R103). -/
def haltReport (kind : ReportKind) (info : Info) (s : State) : State :=
  halt kind { emit (.report kind s.curVector info) s with haltReason := some (s.curVector, info) }

/-- `send_eoi(irq)` (rule R117): the slave first when `irq ≥ 8`, the master always. -/
def sendEoi (irq : Nat) (s : State) : State :=
  if 8 ≤ irq then portOut masterPort s.cfg.eoiCmd (portOut slavePort s.cfg.eoiCmd s)
  else portOut masterPort s.cfg.eoiCmd s

/-- A whole handled-exception dispatch: entry, report and halt (rules R101, R103). -/
def takeTerminal (v : Byte) (err : Option Word32) (kind : ReportKind) (info : Info) (s : State) :
    State :=
  haltReport kind info (enter v err s)

/-- The end of an IRQ dispatch: the EOI, then the return (rules R102, R117, R120). -/
def eoiReturn (irq : Nat) (s : State) : State := ret (sendEoi irq s)

/-! ### Consumer steps -/

/-- A CON command is taken only in normal flow and when no command is in progress: there is no step
while the block is HALTED (rule R164) or inside a dispatch (rule R4), and CON issues only from READY
(rule R45; log 4). -/
def conIssue (run : State → Result) (s : State) : Result :=
  if s.mode = .idle ∧ s.conState = .ready then run s else noStep s

/-- The TEST step of `READ_CHAR` (rule R161). A read of a slot outside the array faults (log 12). -/
def testStep (s : State) : Result :=
  if s.kb.empty then .next { s with conState := .preHlt }
  else if s.kb.tail < s.cfg.kbufN then
    .next (emit (.read (s.kb.cells.read s.kb.tail))
      { s with kb := { s.kb with tail := (s.kb.tail + 1) % s.cfg.kbufN }, conState := .ready })
  else .fault .keyBufferSlot

/-- The HLT step of `READ_CHAR` (rule R161): the wait begins. -/
def hltStep (s : State) : State := { s with conState := .asleep }

/-! ### Reset -/

/-- The reset action for any configuration: the reset state, or `BAD_CONFIG` (rules R8, R240). -/
def resetWith (c : Cfg) : Result := if c.ok then .next (State.init c) else .refused .badConfig

end Sys2Proof.Machine
end

