-- ==== Sys2Proof/Machine/Flags.lean ====
section
/-! DEFINITION. The keyboard modifier flags, the block's only flags (10_state.md rule R32): what each
scancode writes (41_keyboard.md rules R138 to R147) and the 5-bit view `KMOD` (rule R31). -/

namespace Sys2Proof.Machine

/-- A press of either Shift key (rules R138, R139). -/
def KMod.pressShift (k : KMod) : KMod := { k with shift := true }

/-- A release of either Shift key (rules R140, R141). -/
def KMod.releaseShift (k : KMod) : KMod := { k with shift := false }

/-- A Ctrl press (rule R142). -/
def KMod.pressCtrl (k : KMod) : KMod := { k with ctrl := true }

/-- A Ctrl release (rule R143). -/
def KMod.releaseCtrl (k : KMod) : KMod := { k with ctrl := false }

/-- An Alt press (rule R144). -/
def KMod.pressAlt (k : KMod) : KMod := { k with alt := true }

/-- An Alt release (rule R145). -/
def KMod.releaseAlt (k : KMod) : KMod := { k with alt := false }

/-- A Caps-Lock press (rule R146): it toggles `caps` on the press edge only. -/
def KMod.pressCaps (k : KMod) : KMod :=
  { k with caps := if k.capsDown then k.caps else !k.caps, capsDown := true }

/-- A Caps-Lock release (rule R147): `caps` is unchanged. -/
def KMod.releaseCaps (k : KMod) : KMod := { k with capsDown := false }

/-- The 5-bit view `KMOD` (rule R31): bit 0 shift, 1 ctrl, 2 alt, 3 caps, 4 caps_down. -/
def KMod.bits (k : KMod) : BitVec 5 :=
  BitVec.ofBool k.capsDown ++ BitVec.ofBool k.caps ++ BitVec.ofBool k.alt ++
    BitVec.ofBool k.ctrl ++ BitVec.ofBool k.shift

/-- The modifier state a `KMOD` value stands for (rule R31). -/
def KMod.ofBits (b : BitVec 5) : KMod where
  shift := b.getLsbD 0
  ctrl := b.getLsbD 1
  alt := b.getLsbD 2
  caps := b.getLsbD 3
  capsDown := b.getLsbD 4

end Sys2Proof.Machine
end

