-- ==== Sys2Proof/Machine/Operands.lean ====
section
/-! DEFINITION. Operand forms and values: the character a make code yields (41_keyboard.md rules R131
to R134), the pure decode function (rule R130), the mouse movement operand (30_encoding.md rule R76)
and the packet's decoding (42_mouse.md rule R185), the clamp (00_scope.md rule R10). -/

namespace Sys2Proof.Machine

/-! ### Keyboard -/

/-- `'a' ≤ c ≤ 'z'`, that is 0x61 to 0x7A (rules R9, R131). -/
def isLower (ch : Byte) : Bool := decide (0x61 ≤ ch.toNat) && decide (ch.toNat ≤ 0x7A)

/-- A letter key: its unshifted character is a lowercase letter (rule R131). -/
def letterKey (c : Cfg) (idx : KeyIdx) : Bool := isLower (c.unshAt idx)

/-- `sel` of rule R132: letters by `shift XOR caps`, without caps while Ctrl is held (C1); other
keys by `shift`. -/
def shiftedTable (c : Cfg) (k : KMod) (idx : KeyIdx) : Bool :=
  if letterKey c idx then (if k.ctrl then k.shift else xor k.shift k.caps) else k.shift

/-- `c0` of rule R132: the selected table's character. -/
def tableChar (c : Cfg) (k : KMod) (idx : KeyIdx) : Byte :=
  if shiftedTable c k idx then c.shfAt idx else c.unshAt idx

/-- Rule R133: Ctrl with a resulting lowercase letter gives the control code. -/
def controlCode (k : KMod) (ch : Byte) : Byte := if k.ctrl && isLower ch then ch - 0x60 else ch

/-- The output of a make code (rules R132 to R134, R148): none for the null character. -/
def keyOutput (c : Cfg) (k : KMod) (idx : KeyIdx) : Option Byte :=
  if tableChar c k idx = 0 then none else some (controlCode k (tableChar c k idx))

/-- The pure function of rule R130, from a modifier state and a scancode to the modifier state after
it and the character it yields, row by row of the SC8 map (rules R134, R138 to R149). -/
def kbdDecode (c : Cfg) (k : KMod) (sc : Byte) : KMod × Option Byte :=
  match sc8Row c sc with
  | .lshiftMake => (k.pressShift, none)
  | .rshiftMake => (k.pressShift, none)
  | .lshiftBreak => (k.releaseShift, none)
  | .rshiftBreak => (k.releaseShift, none)
  | .ctrlMake => (k.pressCtrl, none)
  | .ctrlBreak => (k.releaseCtrl, none)
  | .altMake => (k.pressAlt, none)
  | .altBreak => (k.releaseAlt, none)
  | .capsMake => (k.pressCaps, none)
  | .capsBreak => (k.releaseCaps, none)
  | .keyMake => (k, keyOutput c k (scIdx sc))
  | .keyBreak => (k, none)

/-! ### Mouse -/

/-- `mv(m, sg)` (rule R76): 256 is subtracted only when the sign bit is set and the movement byte,
read unsigned, is positive; so `mv(0, 1) = 0`. -/
def mv (m : Byte) (sg : Bool) : Int :=
  if sg ∧ 0 < m.toNat then (m.toNat : Int) - 256 else (m.toNat : Int)

/-- `dx` of rule R185. -/
def packetDx (c : Cfg) (m : Mouse) : Int := mv m.pkt1 (m.pkt0.getLsbD c.msXsign.val)

/-- `dy` of rule R185. -/
def packetDy (c : Cfg) (m : Mouse) : Int := mv m.pkt2 (m.pkt0.getLsbD c.msYsign.val)

/-- `buttons'` of rule R185: bit 0 left, bit 1 right, bit 2 middle. -/
def packetButtons (m : Mouse) : BitVec 3 := m.pkt0.setWidth 3

/-- `clamp(v, lo, hi) = min(max(v, lo), hi)` (rule R10). -/
def clamp (v lo hi : Int) : Int := min (max v lo) hi

/-- `cur_x` after `MovePosition` (rule R186). -/
def movedX (c : Cfg) (x dx : Int) : Int := clamp (x + dx) 0 ((c.width : Int) - 1)

/-- `cur_y` after `MovePosition` (rule R186): the Y axis is inverted. -/
def movedY (c : Cfg) (y dy : Int) : Int := clamp (y - dy) 0 ((c.height : Int) - 1)

end Sys2Proof.Machine
end

