-- ==== Sys2Proof/Machine/Consumer.lean ====
section
/-! DEFINITION. The CON2 operations (41_keyboard.md rules R160 to R164). -/

namespace Sys2Proof.Machine

/-- CON_HAS_KEY (rule R160): `head ≠ tail` is returned to CON (log 13). -/
def execConHasKey (s : State) : Result :=
  conIssue (fun s => .next { s with hasKeyReply := some (!s.kb.empty) }) s

/-- CON_READ_CHAR (rule R161): the command's next step, by `con_state`; the command's first step is
the TEST from READY (log 4). -/
def execConReadChar (s : State) : Result :=
  if s.mode = .idle then
    match s.conState with
    | .ready => testStep s
    | .retry => testStep s
    | .preHlt => .next (hltStep s)
    | .asleep => noStep s
  else noStep s

/-- CON_ARM (rule R162): arming twice is arming once. -/
def execConArm (s : State) : Result := conIssue (fun s => .next { s with armed := true }) s

/-- CON_RESERVED (rule R163): refused; a halted block takes no step first (rule R164). -/
def execConReserved (s : State) : Result :=
  if s.mode = .halted then noStep s else .refused .reservedCon

end Sys2Proof.Machine
end

