-- ==== Sys2Proof/Machine/Keyboard.lean ====
section
/-! DEFINITION. The SC8 operations (41_keyboard.md rules R138 to R149) and `KbdStep` (rule R130). -/

namespace Sys2Proof.Machine

/-- KB_LSHIFT_MAKE (rule R138). -/
def execKbLshiftMake (s : State) : Result := .next { s with kmod := s.kmod.pressShift }

/-- KB_RSHIFT_MAKE (rule R139): the one `shift` flag. -/
def execKbRshiftMake (s : State) : Result := .next { s with kmod := s.kmod.pressShift }

/-- KB_LSHIFT_BREAK (rule R140). -/
def execKbLshiftBreak (s : State) : Result := .next { s with kmod := s.kmod.releaseShift }

/-- KB_RSHIFT_BREAK (rule R141). -/
def execKbRshiftBreak (s : State) : Result := .next { s with kmod := s.kmod.releaseShift }

/-- KB_CTRL_MAKE (rule R142). -/
def execKbCtrlMake (s : State) : Result := .next { s with kmod := s.kmod.pressCtrl }

/-- KB_CTRL_BREAK (rule R143). -/
def execKbCtrlBreak (s : State) : Result := .next { s with kmod := s.kmod.releaseCtrl }

/-- KB_ALT_MAKE (rule R144). -/
def execKbAltMake (s : State) : Result := .next { s with kmod := s.kmod.pressAlt }

/-- KB_ALT_BREAK (rule R145). -/
def execKbAltBreak (s : State) : Result := .next { s with kmod := s.kmod.releaseAlt }

/-- KB_CAPS_MAKE (rule R146). -/
def execKbCapsMake (s : State) : Result := .next { s with kmod := s.kmod.pressCaps }

/-- KB_CAPS_BREAK (rule R147). -/
def execKbCapsBreak (s : State) : Result := .next { s with kmod := s.kmod.releaseCaps }

/-- KB_KEY_MAKE (rule R148): the character, where there is one, goes to `Enqueue`. -/
def execKbKeyMake (idx : KeyIdx) (s : State) : Result :=
  match keyOutput s.cfg s.kmod idx with
  | none => .next s
  | some ch => enqueue ch s

/-- KB_KEY_BREAK (rule R149): no output and no state change, whatever the index. -/
def execKbKeyBreak (_idx : KeyIdx) (s : State) : Result := .next s

/-- `KbdStep(sc)` (rule R130): the SC8 map selects the rule that runs. -/
def kbdStep (sc : Byte) (s : State) : Result :=
  match sc8Row s.cfg sc with
  | .lshiftMake => execKbLshiftMake s
  | .rshiftMake => execKbRshiftMake s
  | .lshiftBreak => execKbLshiftBreak s
  | .rshiftBreak => execKbRshiftBreak s
  | .ctrlMake => execKbCtrlMake s
  | .ctrlBreak => execKbCtrlBreak s
  | .altMake => execKbAltMake s
  | .altBreak => execKbAltBreak s
  | .capsMake => execKbCapsMake s
  | .capsBreak => execKbCapsBreak s
  | .keyMake => execKbKeyMake (scIdx sc) s
  | .keyBreak => execKbKeyBreak (scIdx sc) s

end Sys2Proof.Machine
end

