-- ==== Sys2Proof/Machine/MousePacket.lean ====
section
/-! DEFINITION. The MW10 operations (42_mouse.md rules R180 to R184), the packet's completion (rules
R185 to R188) and `MouseStep`. -/

namespace Sys2Proof.Machine

/-! ### Packet completion -/

/-- `MovePosition(dx, dy)` (rule R186). -/
def movePosition (dx dy : Int) (s : State) : State :=
  { s with cursor := { s.cursor with x := movedX s.cfg s.cursor.x dx, y := movedY s.cfg s.cursor.y dy } }

/-- The restore of rule R187: the old cell is written back where one is saved. -/
def restoreCell (s : State) : State :=
  if s.cursor.savedValid then
    dispWrite s.cursor.savedX s.cursor.savedY s.cursor.savedG s.cursor.savedC s
  else s

/-- The save of rule R187: the cell under the cursor is read and becomes the saved cell. -/
def saveCell (s : State) : State :=
  { dispRead s.cursor.x s.cursor.y s with
    cursor := { s.cursor with
      savedValid := true
      savedX := s.cursor.x
      savedY := s.cursor.y
      savedG := (dispCell s).1
      savedC := (dispCell s).2 } }

/-- The drawing of rule R187, from the cell just saved, by `CURSOR_CELL` (log 9). -/
def drawCursor (s : State) : State :=
  dispWrite s.cursor.x s.cursor.y (Config.cursorCell s.cursor.savedG s.cursor.savedC).1
    (Config.cursorCell s.cursor.savedG s.cursor.savedC).2 s

/-- The cells `Redraw` accesses are in the display cell space (rule R58). -/
def redrawInDisplay (s : State) : Bool :=
  inDisplay s.cfg s.cursor.x s.cursor.y &&
    (!s.cursor.savedValid || inDisplay s.cfg s.cursor.savedX s.cursor.savedY)

/-- `Redraw()` (rule R187). An access outside the display cell space faults (log 12). -/
def redraw (s : State) : Result :=
  if redrawInDisplay s then .next (drawCursor (saveCell (restoreCell s)))
  else .fault .displayCell

/-- The state of a completed packet before `Redraw`: the byte stored, the phase 0, the buttons, the
position moved and `MOUSE` emitted, in rule R183's order (rules R185, R186, R188). -/
def completePacket (b : Byte) (s : State) : State :=
  let m := { s.mouse with pkt2 := b, phase := 0 }
  let t := movePosition (packetDx s.cfg m) (packetDy s.cfg m)
    { s with mouse := { m with buttons := packetButtons m } }
  emit (.mouse (packetDx s.cfg m) (packetDy s.cfg m) (packetButtons m)) t

/-! ### The operations -/

/-- MS_SYNC_ACCEPT (rule R180). -/
def execMsSyncAccept (b : Byte) (s : State) : Result :=
  .next { s with mouse := { s.mouse with pkt0 := b, phase := 1 } }

/-- MS_SYNC_DISCARD (rule R181): the byte is not stored. -/
def execMsSyncDiscard (_b : Byte) (s : State) : Result := .next s

/-- MS_BYTE1 (rule R182). -/
def execMsByte1 (b : Byte) (s : State) : Result :=
  .next { s with mouse := { s.mouse with pkt1 := b, phase := 2 } }

/-- MS_BYTE2_COMPLETE (rule R183). -/
def execMsByte2Complete (b : Byte) (s : State) : Result := redraw (completePacket b s)

/-- MS_PHASE3 (rule R184): the fault MOUSE_PHASE3 is raised, and nothing else changes (log 5). -/
def execMsPhase3 (_b : Byte) (s : State) : Result := raiseFault .mousePhase3 s

/-- `MouseStep(phase ++ b)` (rules R81, R113): the MW10 map selects the rule that runs. -/
def mouseStep (b : Byte) (s : State) : Result :=
  match mw10Row s.mouse.phase b with
  | .syncAccept => execMsSyncAccept b s
  | .syncDiscard => execMsSyncDiscard b s
  | .byte1 => execMsByte1 b s
  | .byte2Complete => execMsByte2Complete b s
  | .phase3 => execMsPhase3 b s

end Sys2Proof.Machine
end

