-- ==== Sys2Proof/Machine/Router.lean ====
section
/-! DEFINITION. The VEC8 operations (40_dispatch.md rules R105 to R116): one dispatch request each,
as one atomic step (00_scope.md rule R4). Every one is admitted by rule R100. -/

namespace Sys2Proof.Machine

/-! ### The handled exceptions: report and halt, no EOI -/

/-- INT_DE (rule R105). -/
def execIntDe (err cr2 : Option Word32) (s : State) : Result :=
  whenAdmitted 0 err cr2 (fun s => .next (takeTerminal 0 none .divideByZero ⟨none, none⟩ s)) s

/-- INT_DB (rule R106). -/
def execIntDb (err cr2 : Option Word32) (s : State) : Result :=
  whenAdmitted 1 err cr2 (fun s => .next (takeTerminal 1 none .debug ⟨none, none⟩ s)) s

/-- INT_BP (rule R107). -/
def execIntBp (err cr2 : Option Word32) (s : State) : Result :=
  whenAdmitted 3 err cr2 (fun s => .next (takeTerminal 3 none .breakpoint ⟨none, none⟩ s)) s

/-- INT_DF (rule R108). -/
def execIntDf (err cr2 : Option Word32) (s : State) : Result :=
  whenAdmitted 8 err cr2 (fun s => .next (takeTerminal 8 err .doubleFault ⟨err, none⟩ s)) s

/-- INT_GP (rule R109). -/
def execIntGp (err cr2 : Option Word32) (s : State) : Result :=
  whenAdmitted 13 err cr2 (fun s => .next (takeTerminal 13 err .generalProtection ⟨err, none⟩ s)) s

/-- INT_PF (rule R110). -/
def execIntPf (err cr2 : Option Word32) (s : State) : Result :=
  whenAdmitted 14 err cr2 (fun s => .next (takeTerminal 14 err .pageFault ⟨err, cr2⟩ s)) s

/-! ### The IRQs: device action, EOI, return -/

/-- INT_IRQ_TIMER (rule R111). -/
def execIntIrqTimer (err cr2 : Option Word32) (s : State) : Result :=
  whenAdmitted s.cfg.irqBase err cr2
    (fun s => .next (eoiReturn 0 (emit .tick (enter s.cfg.irqBase none s)))) s

/-- INT_IRQ_KBD (rule R112): port 0x60 is read exactly once, before the decode. -/
def execIntIrqKbd (err cr2 : Option Word32) (s : State) : Result :=
  whenAdmitted (s.cfg.irqBase + 1) err cr2
    (fun s => andThen (kbdStep (ps2Byte s) (portIn ps2Port (enter (s.cfg.irqBase + 1) none s)))
      (fun t => .next (eoiReturn 1 t))) s

/-- INT_IRQ_MOUSE (rule R113): port 0x60 is read exactly once. At phase 3 the step is the fault
MOUSE_PHASE3 and nothing of the dispatch remains (rules R184, R219; log 5). -/
def execIntIrqMouse (err cr2 : Option Word32) (s : State) : Result :=
  whenAdmitted (s.cfg.irqBase + 12) err cr2
    (fun s =>
      if s.mouse.phase = 3 then execMsPhase3 (ps2Byte s) s
      else andThen (mouseStep (ps2Byte s) (portIn ps2Port (enter (s.cfg.irqBase + 12) none s)))
        (fun t => .next (eoiReturn 12 t))) s

/-- INT_IRQ_UNHANDLED (rule R114): logged, and the EOI still issued. -/
def execIntIrqUnhandled (v : Byte) (err cr2 : Option Word32) (s : State) : Result :=
  whenAdmitted v err cr2
    (fun s => .next
      (eoiReturn (v.toNat - s.cfg.irqBase.toNat) (emit (.log v none) (enter v none s)))) s

/-! ### The other vectors -/

/-- INT_EXC_UNHANDLED (rule R115): logged, no EOI, and the dispatch returns. -/
def execIntExcUnhandled (v : Byte) (err cr2 : Option Word32) (s : State) : Result :=
  whenAdmitted v err cr2 (fun s => .next (ret (emit (.log v err) (enter v err s)))) s

/-- INT_ABSENT (rule R116): refused; a halted block takes no step first (rule R100). -/
def execIntAbsent (v : Byte) (err cr2 : Option Word32) (s : State) : Result :=
  whenAdmitted v err cr2 (fun _ => .refused .absentVector) s

end Sys2Proof.Machine
end

