-- ==== Sys2Proof/Machine/Dispatch.lean ====
section
/-! DEFINITION. One arm per operation of the opcode table. -/

namespace Sys2Proof.Machine

def exec (i : Instr) (s : State) : Host.Outcome State Fault Refusal :=
  match i with
  | .kbLshiftMake => Sys2Proof.Machine.execKbLshiftMake s
  | .kbRshiftMake => Sys2Proof.Machine.execKbRshiftMake s
  | .kbLshiftBreak => Sys2Proof.Machine.execKbLshiftBreak s
  | .kbRshiftBreak => Sys2Proof.Machine.execKbRshiftBreak s
  | .kbCtrlMake => Sys2Proof.Machine.execKbCtrlMake s
  | .kbCtrlBreak => Sys2Proof.Machine.execKbCtrlBreak s
  | .kbAltMake => Sys2Proof.Machine.execKbAltMake s
  | .kbAltBreak => Sys2Proof.Machine.execKbAltBreak s
  | .kbCapsMake => Sys2Proof.Machine.execKbCapsMake s
  | .kbCapsBreak => Sys2Proof.Machine.execKbCapsBreak s
  | .kbKeyMake idx => Sys2Proof.Machine.execKbKeyMake idx s
  | .kbKeyBreak idx => Sys2Proof.Machine.execKbKeyBreak idx s
  | .intDe err cr2 => Sys2Proof.Machine.execIntDe err cr2 s
  | .intDb err cr2 => Sys2Proof.Machine.execIntDb err cr2 s
  | .intBp err cr2 => Sys2Proof.Machine.execIntBp err cr2 s
  | .intDf err cr2 => Sys2Proof.Machine.execIntDf err cr2 s
  | .intGp err cr2 => Sys2Proof.Machine.execIntGp err cr2 s
  | .intPf err cr2 => Sys2Proof.Machine.execIntPf err cr2 s
  | .intIrqTimer err cr2 => Sys2Proof.Machine.execIntIrqTimer err cr2 s
  | .intIrqKbd err cr2 => Sys2Proof.Machine.execIntIrqKbd err cr2 s
  | .intIrqMouse err cr2 => Sys2Proof.Machine.execIntIrqMouse err cr2 s
  | .intIrqUnhandled v err cr2 => Sys2Proof.Machine.execIntIrqUnhandled v err cr2 s
  | .intExcUnhandled v err cr2 => Sys2Proof.Machine.execIntExcUnhandled v err cr2 s
  | .intAbsent v err cr2 => Sys2Proof.Machine.execIntAbsent v err cr2 s
  | .msSyncAccept b => Sys2Proof.Machine.execMsSyncAccept b s
  | .msSyncDiscard b => Sys2Proof.Machine.execMsSyncDiscard b s
  | .msByte1 b => Sys2Proof.Machine.execMsByte1 b s
  | .msByte2Complete b => Sys2Proof.Machine.execMsByte2Complete b s
  | .msPhase3 b => Sys2Proof.Machine.execMsPhase3 b s
  | .conHasKey => Sys2Proof.Machine.execConHasKey s
  | .conReadChar => Sys2Proof.Machine.execConReadChar s
  | .conArm => Sys2Proof.Machine.execConArm s
  | .conReserved => Sys2Proof.Machine.execConReserved s

end Sys2Proof.Machine
end

