-- ==== Sys2Proof/Machine/Fetch.lean ====
section
/-! DEFINITION. The next input word: taken from the agents' offers and decoded (30_encoding.md rules
R70, R78; 10_state.md rule R21), and placed there for the host. -/

namespace Sys2Proof.Machine

/-- The input word an offer supplies: INT's is a VEC8 word, CON's a CON2 word (rule R70). -/
def Offer.word : Offer → InputWord
  | .int v err cr2 => .vec8 v err cr2
  | .con op => .con2 op

/-- The oldest offer's operation, and the state with that offer taken; none when the agents offer
nothing (rules R3, R21; log 3). -/
def fetch (s : State) : Option (Instr × State) :=
  match s.agents.inputs with
  | [] => none
  | o :: rest =>
    some (decode s.cfg o.word, { s with agents := { s.agents with inputs := rest } })

/-- The state with an offer placed before all others. -/
def offerFirst (o : Offer) (s : State) : State :=
  { s with agents := { s.agents with inputs := o :: s.agents.inputs } }

/-- The state with an answer to the next read of port 0x60 placed before all others. -/
def answerFirst (b : Byte) (s : State) : State :=
  { s with agents := { s.agents with ps2 := b :: s.agents.ps2 } }

/-- The state in which the very next step takes a request for vector `v`: the router is idle and
armed, and the request stands first. -/
def placeRequest (v : Byte) (err cr2 : Option Word32) (s : State) : State :=
  offerFirst (.int v err cr2) { s with mode := .idle, armed := true }

/-- The state in which the very next step runs the word (log 16). A VEC8 word is offered, with a
zero answer for the routes that read port 0x60; a CON2 word is offered from READY; an SC8 or MW10
word is the byte that a keyboard or mouse dispatch reads, the latter at the word's phase. -/
def placeWord : InputWord → State → State
  | .sc8 sc, s => answerFirst sc (placeRequest (s.cfg.irqBase + 1) none none s)
  | .vec8 v err cr2, s =>
    match route s.cfg v with
    | .kbd | .mouse => answerFirst 0 (placeRequest v err cr2 s)
    | .de | .db | .bp | .df | .gp | .pf | .timer | .irqUnhandled | .excUnhandled | .absent =>
      placeRequest v err cr2 s
  | .mw10 w, s =>
    answerFirst (mwByte w) (placeRequest (s.cfg.irqBase + 12) none none
      { s with mouse := { s.mouse with phase := mwPhase w } })
  | .con2 op, s => offerFirst (.con op) { s with mode := .idle, conState := .ready }

end Sys2Proof.Machine
end

