-- ==== Sys2Proof/Machine/Step.lean ====
section
/-! DEFINITION. One step of the block: the oldest offer of an agent is taken, decoded and run. -/

namespace Sys2Proof.Machine

/-- One step (10_state.md rule R21, 20_memory.md rule R61). A configuration that breaks rule R8 is
refused (rules R212, R240; log 1). With nothing offered nothing changes (log 3). -/
def step (s : State) : Host.Outcome State Fault Refusal :=
  if s.cfg.ok then
    match fetch s with
    | none => noStep s
    | some (i, t) => exec i t
  else .refused .badConfig

/-- The host's numbered word placed where the very next step takes it (log 16). -/
def State.withFetchWord (s : State) (nbits w : Nat) : State :=
  match tableWord nbits w with
  | some word => placeWord word s
  | none => s

end Sys2Proof.Machine
end

