-- ==== Sys2Proof/Safety.lean ====
section
/-! DEFINITION. What claims about runs are stated in: the invariant of 10_state.md rule R41, the key
buffer's content, the launch premise, runs and their ends (70_reset_and_hazards.md rules R251,
R263, R264), the events of the EOI (40_dispatch.md rules R117, R120). -/

namespace Sys2Proof.Machine

/-- The invariant of rule R41 over the registers, with the configuration's check (rule R240) and the
atomicity of a dispatch (00_scope.md rule R4: no step leaves the router HANDLING). `phase`,
`con_state` and `mode` have no other values than the rule's by their types, but for phase 3. -/
structure RegistersOk (s : State) : Prop where
  config : s.cfg.ok = true
  notHandling : s.mode ≠ .handling
  phase : s.mouse.phase ≠ 3
  head : s.kb.head < s.cfg.kbufN
  tail : s.kb.tail < s.cfg.kbufN
  x : 0 ≤ s.cursor.x ∧ s.cursor.x < s.cfg.width
  y : 0 ≤ s.cursor.y ∧ s.cursor.y < s.cfg.height
  saved : s.cursor.savedValid = true → s.cursor.savedX = s.cursor.x ∧ s.cursor.savedY = s.cursor.y
  halted : s.haltReason ≠ none ↔ s.mode = .halted

/-- The character in the `i`-th unread slot, counted from `tail` (rules R33, R34). -/
def unread (s : State) (i : Nat) : Byte := s.kb.cells.read ((s.kb.tail + i) % s.cfg.kbufN)

/-- The unread characters, oldest first (rules R34, R35). -/
def queue (s : State) : List Byte := (List.range (s.kb.count s.cfg.kbufN)).map (unread s)

/-- The key buffer's array: in canonical form, no slot outside `0 .. KBUF_N - 1`, and every unread
slot written by an enqueue, so never the null character (rules R13, R33). -/
structure KeyBufferOk (s : State) : Prop where
  canonical : s.kb.cells.wf = true
  slots : s.kb.cells.below s.cfg.kbufN = true
  written : ∀ i, i < s.kb.count s.cfg.kbufN → unread s i ≠ 0

/-- A write to an I/O port, the form an EOI has in the trace (rules R53, R117). -/
def Event.isOut : Event → Bool
  | .output _ _ => true
  | .input _ _ | .dread _ _ | .dwrite _ _ _ _ | .log _ _ | .report _ _ _ | .tick
  | .mouse _ _ _ | .read _ | .halt _ => false

/-- The events of `send_eoi(irq)` (rule R117): slave then master when `irq ≥ 8`, else master. -/
def eoiEvents (c : Cfg) (irq : Nat) : List Event :=
  if 8 ≤ irq then [.output slavePort c.eoiCmd, .output masterPort c.eoiCmd]
  else [.output masterPort c.eoiCmd]

/-- The IRQ line of an IRQ-class operation, `v - IRQ_BASE` (rules R77, R111 to R114). -/
def irqLine (c : Cfg) : Instr → Option Nat
  | .intIrqTimer _ _ => some 0
  | .intIrqKbd _ _ => some 1
  | .intIrqMouse _ _ => some 12
  | .intIrqUnhandled v _ _ => some (v.toNat - c.irqBase.toNat)
  | .kbLshiftMake | .kbRshiftMake | .kbLshiftBreak | .kbRshiftBreak | .kbCtrlMake
  | .kbCtrlBreak | .kbAltMake | .kbAltBreak | .kbCapsMake | .kbCapsBreak
  | .kbKeyMake _ | .kbKeyBreak _ => none
  | .intDe _ _ | .intDb _ _ | .intBp _ _ | .intDf _ _ | .intGp _ _ | .intPf _ _
  | .intExcUnhandled _ _ _ | .intAbsent _ _ _ => none
  | .msSyncAccept _ | .msSyncDiscard _ | .msByte1 _ | .msByte2Complete _ | .msPhase3 _ => none
  | .conHasKey | .conReadChar | .conArm | .conReserved => none

/-- The operations that report and halt (rules R103, R105 to R110). -/
def isTerminal : Instr → Bool
  | .intDe _ _ | .intDb _ _ | .intBp _ _ | .intDf _ _ | .intGp _ _ | .intPf _ _ => true
  | .kbLshiftMake | .kbRshiftMake | .kbLshiftBreak | .kbRshiftBreak | .kbCtrlMake
  | .kbCtrlBreak | .kbAltMake | .kbAltBreak | .kbCapsMake | .kbCapsBreak
  | .kbKeyMake _ | .kbKeyBreak _ => false
  | .intIrqTimer _ _ | .intIrqKbd _ _ | .intIrqMouse _ _ | .intIrqUnhandled _ _ _
  | .intExcUnhandled _ _ _ | .intAbsent _ _ _ => false
  | .msSyncAccept _ | .msSyncDiscard _ | .msByte1 _ | .msByte2Complete _ | .msPhase3 _ => false
  | .conHasKey | .conReadChar | .conArm | .conReserved => false

/-! ### The launch premise and the host's duties -/

/-- What an installed gate table lets INT deliver (rule R251 item 1): a present vector, with any side
values. CON's commands are not INT's, so any command. -/
def Offer.throughGates (c : Cfg) : Offer → Bool
  | .int v _ _ => decide (route c v ≠ .absent)
  | .con _ => true

/-- The offers of a host that keeps to the reading rules of rule R264: present vectors with the side
values that fit, and no reserved command. No part of the launch premise: what the host may not do is
refused. -/
def Offer.legal (c : Cfg) : Offer → Bool
  | .int v err cr2 => decide (route c v ≠ .absent) && !badSideValues c v err cr2
  | .con op => decide (op ≠ 3)

/-- Every offer the agents hold out goes through the installed gate table (rule R251 item 1). -/
def Agents.throughGates (c : Cfg) (a : Agents) : Bool := a.inputs.all (Offer.throughGates c)

/-- The launch premise `BootDone`, the five items of rule R251 and nothing more. Items 4 and 5 are
values of the reset state: see `BootDone.unarmed` and `BootDone.nothingInFlight`. -/
structure BootDone (s : State) : Prop where
  /-- Item 1: the gate table is installed, so INT delivers present vectors only. -/
  gates : s.agents.throughGates s.cfg = true
  /-- Item 2: the PICs are remapped with this `IRQ_BASE`, one that rule R8 allows, so that `route`
  gives IRQ `n` the vector `IRQ_BASE + n`. -/
  remapped : s.cfg.ok = true
  /-- Items 3, 4 and 5: the block is in its reset state (rule R240), so unarmed and idle. The agents
  may hold out any offers and answers. -/
  reset : s = { State.init s.cfg with agents := s.agents }

/-! ### Runs -/

/-- One step of a run (rules R3, R12, R263; log 19): the block is not HALTED, an agent offers, and
the block takes the offer and answers a next state. The agents then choose anew what they hold out,
INT still through the gate table; leaving it as it was is one of their choices. -/
def RunStep (s t : State) : Prop :=
  s.mode ≠ .halted ∧ s.agents.inputs ≠ [] ∧
    ∃ (u : State) (a : Agents),
      step s = .next u ∧ a.throughGates u.cfg = true ∧ t = { u with agents := a }

/-- The `n`-th state belongs to a run whose last state is the `last`-th, or to an infinite one. -/
def withinRun (last : Option Nat) (n : Nat) : Prop := ∀ m, last = some m → n ≤ m

/-- A run (rule R263): the states `σ 0`, `σ 1`, … up to `last`, or without end where `last` is
`none`, from the reset state under `BootDone`, each a step after the one before. -/
structure IsRun (σ : Nat → State) (last : Option Nat) : Prop where
  boot : BootDone (σ 0)
  steps : ∀ n, withinRun last (n + 1) → RunStep (σ n) (σ (n + 1))

/-- How a run ends (rule R263): halted, with the halt reason that names the cause; refused; stopped;
or not ended. The model's own faults would end a run too (log 12); none does. -/
inductive RunEnd where
  | halted (why : Option (Byte × Info))
  | refused (r : Refusal)
  | faulted (f : Fault)
  | stopped
  | running
  deriving DecidableEq, Repr

/-- The end of a run at its last state, looking at the step that is offered there (rule R263). It is
stopped only when the router is IDLE and nothing is offered. -/
def runEnd (s : State) : RunEnd :=
  if s.mode = .halted then .halted s.haltReason
  else match step s with
    | .refused r => .refused r
    | .fault f => .faulted f
    | .next _ => if s.agents.inputs = [] ∧ s.mode = .idle then .stopped else .running

/-- The observation of a run at its last state (rule R263; D1): the event trace and the final
state. -/
def observation (s : State) : List Event × State := (s.trace, s)

/-- No fault is recorded: no claim covers a run after one (rules R213, R263). -/
def noFaultRecorded (s : State) : Prop := s.faults = ⟨false, false⟩

end Sys2Proof.Machine
end

