-- ==== Sys2Proof/Certificates/Slice0/Obligations.lean ====
section
/-! DEFINITION. The statements for the provers, from the spec's numbered rules. A statement about a
next state is an equation with the state the rules give wherever they give it whole. -/

open Sys2Proof Sys2Proof.Machine

/-! ### Words and rows -/

/-- R70 to R82: the decoder gives back every well-formed operation from its encoded word, with every
operand at every value its row admits, in every configuration R8 allows. -/
def Obligations.DecodeOfEncodeIsTheOperation : Prop :=
  ∀ (c : Cfg) (i : Instr), c.ok = true → i.wf c = true → decode c (encode c i) = i

/-- R70 to R82: every word of every format is the encoding of the operation it decodes to, so no bit
of a word is dropped, in every configuration. -/
def Obligations.EncodeOfDecodeIsTheWord : Prop :=
  ∀ (c : Cfg) (w : InputWord), encode c (decode c w) = w

/-- R78, R79 to R82: every word of every format decodes to a well-formed operation of that format. -/
def Obligations.DecodedOperationIsWellFormed : Prop :=
  ∀ (c : Cfg) (w : InputWord), (decode c w).wf c = true ∧ (decode c w).format = w.format

/-- R78: with `IRQ_BASE mod 16 = 0` the decoder picks, in every format, the table's row whose mask
has the most 1 bits among the rows that match the word. -/
def Obligations.DecoderPicksTheMostSpecificRow : Prop :=
  ∀ (c : Cfg) (w : InputWord), c.ok = true → c.irqBase.toNat % 16 = 0 →
    (mostSpecific (tableRows c w.format) w.bits).map Row.id = some (decode c w).row

/-- R79 to R82: words written out from the spec's maps, one or more of each format. -/
def Obligations.WrittenOutWordsDecode : Prop :=
  decode Cfg.default (.sc8 0b00101010) = .kbLshiftMake ∧
  decode Cfg.default (.sc8 0b10111010) = .kbCapsBreak ∧
  decode Cfg.default (.sc8 0b00011110) = .kbKeyMake 0b0011110 ∧
  decode Cfg.default (.sc8 0b11100000) = .kbKeyBreak 0b1100000 ∧
  decode Cfg.default (.vec8 0b00001101 (some 0x10) none) = .intGp (some 0x10) none ∧
  decode Cfg.default (.vec8 0b00101100 none none) = .intIrqMouse none none ∧
  decode Cfg.default (.vec8 0b00101010 none none) = .intIrqUnhandled 0x2A none none ∧
  decode Cfg.default (.vec8 0b10000000 none none) = .intAbsent 0x80 none none ∧
  decode Cfg.default (.mw10 0b0000001000) = .msSyncAccept 0b00001000 ∧
  decode Cfg.default (.mw10 0b1000000000) = .msByte2Complete 0b00000000 ∧
  decode Cfg.default (.con2 0b01) = .conReadChar

/-- R57: the three classes of vectors. Vectors 0 to 31 and the IRQ block are present, IRQ vector `n`
is `IRQ_BASE + n`, the IRQ classes are exactly the block's, and every other vector is absent. -/
def Obligations.VectorClassesPartitionTheSpace : Prop :=
  ∀ (c : Cfg) (v : Byte), c.ok = true →
    (v.toNat ≤ 31 → route c v ≠ .absent ∧ (route c v).isIrq = false) ∧
    (c.irqBase.toNat ≤ v.toNat ∧ v.toNat ≤ c.irqBase.toNat + 15 →
      (route c v).isIrq = true ∧
        irqLine c (decode c (.vec8 v none none)) = some (v.toNat - c.irqBase.toNat)) ∧
    (31 < v.toNat ∧ ¬ (c.irqBase.toNat ≤ v.toNat ∧ v.toNat ≤ c.irqBase.toNat + 15) →
      route c v = .absent)

/-! ### Reset, the step, the invariants -/

/-- R240: every register at its reset value for every configuration, no event, and `BAD_CONFIG` for
a configuration that breaks R8. (What KB and the saved cell hold is left unsaid, as the rule leaves
it.) -/
def Obligations.ResetLoadsTheResetValues : Prop :=
  (∀ c : Cfg, resetWith c = if c.ok then .next (State.init c) else .refused .badConfig) ∧
  State.reset = State.init Cfg.default ∧
  ∀ c : Cfg,
    let s := State.init c
    s.cfg = c ∧ s.mode = .idle ∧ s.armed = false ∧ s.curVector = 0 ∧ s.curErr = none ∧
    s.haltReason = none ∧ s.faults = ⟨false, false⟩ ∧
    s.kmod = ⟨false, false, false, false, false⟩ ∧ s.kb.head = 0 ∧ s.kb.tail = 0 ∧
    s.mouse = ⟨0, 0, 0, 0, 0⟩ ∧
    s.cursor.x = (c.width / 2 : Nat) ∧ s.cursor.y = (c.height / 2 : Nat) ∧
    s.cursor.savedValid = false ∧ s.conState = .ready ∧ s.trace = []

/-- R41 and the key buffer's invariant hold in the reset state of every configuration R8 allows
(R240, R7), of which `State.reset` is the default one's. -/
def Obligations.ResetMeetsTheInvariants : Prop :=
  (∀ c : Cfg, c.ok = true → RegistersOk (State.init c) ∧ KeyBufferOk (State.init c)) ∧
  RegistersOk State.reset ∧ KeyBufferOk State.reset

/-- The fetch and its edges: the oldest offer is taken and its decoded operation run by `exec`;
nothing offered changes nothing (log 3); a configuration that breaks R8 is refused (log 1). -/
def Obligations.StepRunsTheDecodedOperation : Prop :=
  (∀ (s : State) (o : Offer) (rest : List Offer), s.cfg.ok = true → s.agents.inputs = o :: rest →
    step s = exec (decode s.cfg o.word) { s with agents := { s.agents with inputs := rest } }) ∧
  (∀ s : State, s.cfg.ok = true → s.agents.inputs = [] → step s = .next s) ∧
  (∀ s : State, s.cfg.ok = false → step s = .refused .badConfig)

/-- R41: every step keeps the registers' invariant, from every state that meets it. -/
def Obligations.EveryStepKeepsTheRegisterInvariant : Prop :=
  ∀ s t : State, RegistersOk s → step s = .next t → RegistersOk t

/-- R13, R33: every step keeps the key buffer's array in canonical form, within its slots, with
every unread slot holding a character that was enqueued. -/
def Obligations.EveryStepKeepsTheKeyBuffer : Prop :=
  ∀ s t : State, RegistersOk s → KeyBufferOk s → step s = .next t → KeyBufferOk t

/-- R41, R58, R33: from a state that meets the register invariant no step stops with a fault of the
model; what can stop it is a refusal of R212. -/
def Obligations.NoFaultUnderTheInvariant : Prop :=
  ∀ s : State, RegistersOk s → ∀ f : Fault, step s ≠ .fault f

/-- R42: no step writes the configuration, the keymap tables in it. -/
def Obligations.NoOperationWritesTheConfiguration : Prop :=
  ∀ (i : Instr) (s t : State), exec i s = .next t → t.cfg = s.cfg

/-! ### SC8: the keyboard -/

/-- R138, R139, R140, R141: either Shift key's make code sets the one `shift` flag and either break
code clears it; nothing else changes; the codes, in every configuration and the default one. -/
def Obligations.ShiftKeysWriteTheOneFlag : Prop :=
  (∀ s : State,
    exec .kbLshiftMake s = .next { s with kmod := { s.kmod with shift := true } } ∧
    exec .kbRshiftMake s = .next { s with kmod := { s.kmod with shift := true } } ∧
    exec .kbLshiftBreak s = .next { s with kmod := { s.kmod with shift := false } } ∧
    exec .kbRshiftBreak s = .next { s with kmod := { s.kmod with shift := false } }) ∧
  (∀ c : Cfg, c.ok = true →
    decode c (.sc8 (makeCode c.scLshift)) = .kbLshiftMake ∧
    decode c (.sc8 (makeCode c.scRshift)) = .kbRshiftMake ∧
    decode c (.sc8 (breakCode c.scLshift)) = .kbLshiftBreak ∧
    decode c (.sc8 (breakCode c.scRshift)) = .kbRshiftBreak) ∧
  decode Cfg.default (.sc8 0x2A) = .kbLshiftMake ∧ decode Cfg.default (.sc8 0x36) = .kbRshiftMake ∧
  decode Cfg.default (.sc8 0xAA) = .kbLshiftBreak ∧ decode Cfg.default (.sc8 0xB6) = .kbRshiftBreak

/-- R142, R143, R144, R145: Ctrl and Alt set and clear their flags; nothing else changes; the codes,
in every configuration and the default one. -/
def Obligations.CtrlAndAltWriteTheirFlags : Prop :=
  (∀ s : State,
    exec .kbCtrlMake s = .next { s with kmod := { s.kmod with ctrl := true } } ∧
    exec .kbCtrlBreak s = .next { s with kmod := { s.kmod with ctrl := false } } ∧
    exec .kbAltMake s = .next { s with kmod := { s.kmod with alt := true } } ∧
    exec .kbAltBreak s = .next { s with kmod := { s.kmod with alt := false } }) ∧
  (∀ c : Cfg, c.ok = true →
    decode c (.sc8 (makeCode c.scCtrl)) = .kbCtrlMake ∧
    decode c (.sc8 (breakCode c.scCtrl)) = .kbCtrlBreak ∧
    decode c (.sc8 (makeCode c.scAlt)) = .kbAltMake ∧
    decode c (.sc8 (breakCode c.scAlt)) = .kbAltBreak) ∧
  decode Cfg.default (.sc8 0x1D) = .kbCtrlMake ∧ decode Cfg.default (.sc8 0x9D) = .kbCtrlBreak ∧
  decode Cfg.default (.sc8 0x38) = .kbAltMake ∧ decode Cfg.default (.sc8 0xB8) = .kbAltBreak

/-- R146, R147: Caps Lock toggles on the press edge only; a repeated make code and a release do not
toggle; nothing but `caps` and `caps_down` changes; the codes, in every configuration and the
default one. -/
def Obligations.CapsLockTogglesOnThePressEdge : Prop :=
  (∀ s : State,
    (s.kmod.capsDown = false → exec .kbCapsMake s =
      .next { s with kmod := { s.kmod with caps := !s.kmod.caps, capsDown := true } }) ∧
    (s.kmod.capsDown = true → exec .kbCapsMake s = .next s) ∧
    exec .kbCapsBreak s = .next { s with kmod := { s.kmod with capsDown := false } }) ∧
  (∀ c : Cfg, c.ok = true →
    decode c (.sc8 (makeCode c.scCaps)) = .kbCapsMake ∧
    decode c (.sc8 (breakCode c.scCaps)) = .kbCapsBreak) ∧
  decode Cfg.default (.sc8 0x3A) = .kbCapsMake ∧ decode Cfg.default (.sc8 0xBA) = .kbCapsBreak

/-- R148: the character of a make code, from the tables, the modifiers and the Ctrl rule, and its
enqueue, for every index, modifier state and keymap; the flags are read, never written. -/
def Obligations.KeyMakeEnqueuesTheCharacter : Prop :=
  (∀ (c : Cfg) (idx : KeyIdx), c.plainKey idx = true →
    decode c (.sc8 (makeCode idx)) = .kbKeyMake idx) ∧
  ∀ (s : State) (idx : KeyIdx), s.kb.head < s.cfg.kbufN →
    let k := s.kmod
    let u := s.cfg.unshAt idx
    let sel := if 0x61 ≤ u.toNat ∧ u.toNat ≤ 0x7A
      then (if k.ctrl then k.shift else xor k.shift k.caps) else k.shift
    let ch := if sel then s.cfg.shfAt idx else u
    let out := if k.ctrl = true ∧ 0x61 ≤ ch.toNat ∧ ch.toNat ≤ 0x7A then ch - 0x60 else ch
    exec (.kbKeyMake idx) s =
      if ch = 0 then .next s
      else if (s.kb.head + 1) % s.cfg.kbufN = s.kb.tail then .next s
      else .next { s with kb :=
        { cells := s.kb.cells.write s.kb.head out
          head := (s.kb.head + 1) % s.cfg.kbufN, tail := s.kb.tail } }

/-- R149: a break code that is no modifier's changes nothing, in any modifier state; the prefixes
0xE0 and 0xE1 are among them. -/
def Obligations.KeyBreakChangesNothing : Prop :=
  (∀ (s : State) (idx : KeyIdx), exec (.kbKeyBreak idx) s = .next s) ∧
  (∀ (c : Cfg) (idx : KeyIdx), c.plainKey idx = true →
    decode c (.sc8 (breakCode idx)) = .kbKeyBreak idx) ∧
  decode Cfg.default (.sc8 0xE0) = .kbKeyBreak 0x60 ∧
  decode Cfg.default (.sc8 0xE1) = .kbKeyBreak 0x61

/-- R130: `KbdStep` runs the operation the SC8 map selects, and that is the pure decode function
followed by the enqueue of its character. -/
def Obligations.KbdStepIsDecodeThenEnqueue : Prop :=
  ∀ (sc : Byte) (s : State),
    kbdStep sc s = exec (decode s.cfg (.sc8 sc)) s ∧
    exec (decode s.cfg (.sc8 sc)) s =
      (let d := kbdDecode s.cfg s.kmod sc
       match d.2 with
       | none => .next { s with kmod := d.1 }
       | some ch => enqueue ch { s with kmod := d.1 })

/-- R134: the output is NONE exactly for a break code, a modifier code and a null table entry, and
every other output is the Ctrl rule's character, which is not the null character. -/
def Obligations.OutputRuleOfTheDecoder : Prop :=
  ∀ (c : Cfg) (k : KMod) (sc : Byte),
    ((kbdDecode c k sc).2 = none ↔
      scReleased sc = true ∨ scIdx sc ∈ c.modifiers ∨ tableChar c k (scIdx sc) = 0) ∧
    ∀ ch : Byte, (kbdDecode c k sc).2 = some ch →
      ch = controlCode k (tableChar c k (scIdx sc)) ∧ ch ≠ 0

/-- R132, R133, C1: Ctrl with a letter key, Shift released, gives the control code 0x01 to 0x1A,
whatever Caps Lock and Alt say, in every keymap. -/
def Obligations.ControlCodesIgnoreCapsLock : Prop :=
  ∀ (c : Cfg) (k : KMod) (idx : KeyIdx),
    letterKey c idx = true → k.ctrl = true → k.shift = false →
    ∃ ch : Byte, keyOutput c k idx = some ch ∧ ch.toNat + 0x60 = (c.unshAt idx).toNat ∧
      1 ≤ ch.toNat ∧ ch.toNat ≤ 0x1A

/-- R131: a letter key is one whose unshifted character is a lowercase letter; with the default
table these are the 26 keys 0x10 to 0x19, 0x1E to 0x26 and 0x2C to 0x32. -/
def Obligations.LetterKeysOfTheDefaultTable : Prop :=
  (∀ (c : Cfg) (idx : KeyIdx), letterKey c idx = true ↔
    0x61 ≤ (c.unshAt idx).toNat ∧ (c.unshAt idx).toNat ≤ 0x7A) ∧
  ∀ idx : KeyIdx, letterKey Cfg.default idx = true ↔
    (0x10 ≤ idx.toNat ∧ idx.toNat ≤ 0x19) ∨ (0x1E ≤ idx.toNat ∧ idx.toNat ≤ 0x26) ∨
      (0x2C ≤ idx.toNat ∧ idx.toNat ≤ 0x32)

/-- The frame of the SC8 operations (R130): only the modifier bits and, for a make code, `KB[head]`
and `head` change; KB_KEY_MAKE and KB_KEY_BREAK write no flag, the others no part of the key
buffer. -/
def Obligations.KeyboardOperationsFrame : Prop :=
  ∀ (i : Instr) (s t : State), i.format = .sc8 → exec i s = .next t →
    t = { s with kmod := t.kmod, kb := t.kb } ∧ t.kb.tail = s.kb.tail ∧
    (∀ a : Nat, a ≠ s.kb.head → t.kb.cells.read a = s.kb.cells.read a) ∧
    ((∃ idx, i = .kbKeyMake idx ∨ i = .kbKeyBreak idx) → t.kmod = s.kmod) ∧
    ((∀ idx, i ≠ .kbKeyMake idx) → t.kb = s.kb)

/-! ### The key buffer -/

/-- R135: the enqueue of a character, dropped silently when the next head would equal the tail. -/
def Obligations.EnqueueWritesOrDrops : Prop :=
  ∀ (ch : Byte) (s : State), s.kb.head < s.cfg.kbufN →
    enqueue ch s =
      if (s.kb.head + 1) % s.cfg.kbufN = s.kb.tail then .next s
      else .next { s with kb :=
        { cells := s.kb.cells.write s.kb.head ch
          head := (s.kb.head + 1) % s.cfg.kbufN, tail := s.kb.tail } }

/-- R33, R34, R35, R135, R161: the circular buffer is a first-in first-out queue of at most
`KBUF_N - 1` characters. An enqueue adds the character at the end, or drops it when `KBUF_N - 1` are
held; `READ_CHAR`'s TEST step takes the oldest, and reports it, or finds the queue empty. -/
def Obligations.KeyBufferIsABoundedFifo : Prop :=
  ∀ s : State, s.cfg.ok = true → s.kb.cells.wf = true →
    s.kb.head < s.cfg.kbufN → s.kb.tail < s.cfg.kbufN →
    (queue s).length ≤ s.cfg.kbufN - 1 ∧
    (∀ ch : Byte,
      if (queue s).length = s.cfg.kbufN - 1 then enqueue ch s = .next s
      else ∃ t, enqueue ch s = .next t ∧ queue t = queue s ++ [ch]) ∧
    (s.mode = .idle → s.conState = .ready ∨ s.conState = .retry →
      ∃ t, exec .conReadChar s = .next t ∧
        match queue s with
        | [] => queue t = [] ∧ t.trace = s.trace ∧ t.conState = .preHlt
        | ch :: rest => queue t = rest ∧ t.trace = s.trace ++ [.read ch] ∧ t.conState = .ready)

/-! ### VEC8: the router -/

/-- R105, R106, R107: the handled exceptions without an error code report and halt, taken whatever
`armed` is, with no EOI; nothing else changes. -/
def Obligations.ExceptionsWithoutCodeReportAndHalt : Prop :=
  (∀ s : State, s.mode = .idle →
    ((0 : Byte) ∉ s.cfg.errcodeVectors → exec (.intDe none none) s = .next { s with
      mode := .halted, curVector := 0, curErr := none, haltReason := some (0, ⟨none, none⟩)
      trace := s.trace ++ [.report .divideByZero 0 ⟨none, none⟩, .halt .divideByZero] }) ∧
    ((1 : Byte) ∉ s.cfg.errcodeVectors → exec (.intDb none none) s = .next { s with
      mode := .halted, curVector := 1, curErr := none, haltReason := some (1, ⟨none, none⟩)
      trace := s.trace ++ [.report .debug 1 ⟨none, none⟩, .halt .debug] }) ∧
    ((3 : Byte) ∉ s.cfg.errcodeVectors → exec (.intBp none none) s = .next { s with
      mode := .halted, curVector := 3, curErr := none, haltReason := some (3, ⟨none, none⟩)
      trace := s.trace ++ [.report .breakpoint 3 ⟨none, none⟩, .halt .breakpoint] })) ∧
  ∀ c : Cfg, decode c (.vec8 0 none none) = .intDe none none ∧
    decode c (.vec8 1 none none) = .intDb none none ∧
    decode c (.vec8 3 none none) = .intBp none none

/-- R108, R109, R110: the handled exceptions with an error code (and, for the page fault, the fault
address) report them whole and halt, with no EOI; without them the request is refused. -/
def Obligations.ExceptionsWithCodeReportAndHalt : Prop :=
  (∀ (s : State) (e a : Word32), s.mode = .idle →
    ((8 : Byte) ∈ s.cfg.errcodeVectors →
      exec (.intDf (some e) none) s = .next { s with
        mode := .halted, curVector := 8, curErr := some e
        haltReason := some (8, ⟨some e, none⟩)
        trace := s.trace ++ [.report .doubleFault 8 ⟨some e, none⟩, .halt .doubleFault] } ∧
      exec (.intDf none none) s = .refused .sideValueShape) ∧
    ((13 : Byte) ∈ s.cfg.errcodeVectors →
      exec (.intGp (some e) none) s = .next { s with
        mode := .halted, curVector := 13, curErr := some e
        haltReason := some (13, ⟨some e, none⟩)
        trace := s.trace ++
          [.report .generalProtection 13 ⟨some e, none⟩, .halt .generalProtection] } ∧
      exec (.intGp none none) s = .refused .sideValueShape) ∧
    ((14 : Byte) ∈ s.cfg.errcodeVectors →
      exec (.intPf (some e) (some a)) s = .next { s with
        mode := .halted, curVector := 14, curErr := some e
        haltReason := some (14, ⟨some e, some a⟩)
        trace := s.trace ++ [.report .pageFault 14 ⟨some e, some a⟩, .halt .pageFault] } ∧
      exec (.intPf none (some a)) s = .refused .sideValueShape ∧
      exec (.intPf (some e) none) s = .refused .sideValueShape ∧
      exec (.intPf none none) s = .refused .sideValueShape)) ∧
  ∀ (c : Cfg) (err cr2 : Option Word32), decode c (.vec8 8 err cr2) = .intDf err cr2 ∧
    decode c (.vec8 13 err cr2) = .intGp err cr2 ∧ decode c (.vec8 14 err cr2) = .intPf err cr2

/-- R111: the timer route ticks, acknowledges IRQ 0 and returns; it is held while `armed = 0` (a hold
is R12's "no change", which the model writes as the unchanged next state: log 2). -/
def Obligations.TimerTicksAndAcknowledges : Prop :=
  (∀ s : State, s.cfg.ok = true → s.cfg.irqBase ∉ s.cfg.errcodeVectors → s.mode = .idle →
    decode s.cfg (.vec8 s.cfg.irqBase none none) = .intIrqTimer none none ∧
    (s.armed = true → exec (.intIrqTimer none none) s = .next { s with
      mode := .idle, curVector := s.cfg.irqBase, curErr := none
      conState := if s.conState = .asleep then .retry else s.conState
      trace := s.trace ++ [.tick, .output 0x20 s.cfg.eoiCmd] }) ∧
    (s.armed = false → exec (.intIrqTimer none none) s = .next s)) ∧
  decode Cfg.default (.vec8 0x20 none none) = .intIrqTimer none none

/-- R112: the keyboard route reads port 0x60 once, runs the scancode's operation, then acknowledges
IRQ 1 and returns, for every byte PS2 answers; it is held while `armed = 0`. -/
def Obligations.KeyboardDispatchRunsTheScancode : Prop :=
  (∀ (s : State) (b : Byte) (agents : Agents),
    s.cfg.ok = true → s.cfg.irqBase + 1 ∉ s.cfg.errcodeVectors → s.mode = .idle →
    s.kb.head < s.cfg.kbufN → ps2Answer s.agents = (b, agents) →
    decode s.cfg (.vec8 (s.cfg.irqBase + 1) none none) = .intIrqKbd none none ∧
    (s.armed = true →
      ∃ m, exec (decode s.cfg (.sc8 b)) s = .next m ∧
        exec (.intIrqKbd none none) s = .next { m with
          mode := .idle, curVector := s.cfg.irqBase + 1, curErr := none
          conState := if s.conState = .asleep then .retry else s.conState
          agents := agents
          trace := s.trace ++ [.input 0x60 b, .output 0x20 s.cfg.eoiCmd] }) ∧
    (s.armed = false → exec (.intIrqKbd none none) s = .next s)) ∧
  decode Cfg.default (.vec8 0x21 none none) = .intIrqKbd none none

/-- R113, R218: the mouse route reads port 0x60 once, runs the MW10 word's operation on the state
after entry and read, then acknowledges IRQ 12, slave first, and returns; it is held while
`armed = 0`. -/
def Obligations.MouseDispatchRunsTheByte : Prop :=
  (∀ (s : State) (b : Byte) (agents : Agents),
    s.cfg.ok = true → s.cfg.irqBase + 12 ∉ s.cfg.errcodeVectors → s.mode = .idle →
    s.mouse.phase ≠ 3 →
    (s.cursor.savedValid = true → inDisplay s.cfg s.cursor.savedX s.cursor.savedY = true) →
    ps2Answer s.agents = (b, agents) →
    decode s.cfg (.vec8 (s.cfg.irqBase + 12) none none) = .intIrqMouse none none ∧
    (s.armed = true →
      ∃ m, exec (decode s.cfg (.mw10 (mouseWord s.mouse.phase b))) { s with
          mode := .handling, curVector := s.cfg.irqBase + 12, curErr := none
          agents := agents, trace := s.trace ++ [.input 0x60 b] } = .next m ∧
        exec (.intIrqMouse none none) s = .next { m with
          mode := .idle
          conState := if s.conState = .asleep then .retry else s.conState
          trace := m.trace ++ [.output 0xA0 s.cfg.eoiCmd, .output 0x20 s.cfg.eoiCmd] }) ∧
    (s.armed = false → exec (.intIrqMouse none none) s = .next s)) ∧
  decode Cfg.default (.vec8 0x2C none none) = .intIrqMouse none none

/-- R114: every other IRQ vector is logged, acknowledged and returned from; held while
`armed = 0`. -/
def Obligations.OtherIrqsAreLoggedAndAcknowledged : Prop :=
  ∀ (s : State) (v : Byte), s.cfg.ok = true → (Instr.intIrqUnhandled v none none).wf s.cfg = true →
    v ∉ s.cfg.errcodeVectors → s.mode = .idle →
    decode s.cfg (.vec8 v none none) = .intIrqUnhandled v none none ∧
    (s.armed = true → exec (.intIrqUnhandled v none none) s = .next { s with
      mode := .idle, curVector := v, curErr := none
      conState := if s.conState = .asleep then .retry else s.conState
      trace := s.trace ++ .log v none ::
        (if 8 ≤ v.toNat - s.cfg.irqBase.toNat
          then [.output 0xA0 s.cfg.eoiCmd, .output 0x20 s.cfg.eoiCmd]
          else [.output 0x20 s.cfg.eoiCmd]) }) ∧
    (s.armed = false → exec (.intIrqUnhandled v none none) s = .next s)

/-- R115: every other exception vector is logged with its error code and returned from, with no EOI,
whatever `armed` is. -/
def Obligations.OtherExceptionsAreLoggedAndReturn : Prop :=
  ∀ (s : State) (v : Byte) (err : Option Word32), s.cfg.ok = true →
    (Instr.intExcUnhandled v err none).wf s.cfg = true →
    (err.isSome = true ↔ v ∈ s.cfg.errcodeVectors) → s.mode = .idle →
    decode s.cfg (.vec8 v err none) = .intExcUnhandled v err none ∧
    exec (.intExcUnhandled v err none) s = .next { s with
      mode := .idle, curVector := v, curErr := err
      conState := if s.conState = .asleep then .retry else s.conState
      trace := s.trace ++ [.log v err] }

/-- R116, R100: a vector without a present gate is refused, whatever its side values, unless the
block is halted, when there is no step. -/
def Obligations.AbsentVectorsAreRefused : Prop :=
  ∀ (s : State) (v : Byte) (err cr2 : Option Word32), s.cfg.ok = true →
    31 < v.toNat → ¬ (s.cfg.irqBase.toNat ≤ v.toNat ∧ v.toNat ≤ s.cfg.irqBase.toNat + 15) →
    decode s.cfg (.vec8 v err cr2) = .intAbsent v err cr2 ∧
    exec (.intAbsent v err cr2) s =
      if s.mode = .halted then .next s else .refused .absentVector

/-- R100 for every vector and every shape of side values, the checks in the rule's order: halted, no
step; absent, refused; wrong side values, refused; an IRQ while unarmed, held. For a router that is
HANDLING, which no step leaves behind, an IRQ is held (R100) and an exception is the recorded fault
NESTED_EXCEPTION: the model's reading of R119, R220 and R257 against R100's hold (log 6). -/
def Obligations.AdmissionChecksInOrder : Prop :=
  ∀ (s : State) (v : Byte) (err cr2 : Option Word32),
    let i := decode s.cfg (.vec8 v err cr2)
    let fits := (err.isSome = true ↔ v ∈ s.cfg.errcodeVectors) ∧ (cr2.isSome = true ↔ v = 14)
    (s.mode = .halted → exec i s = .next s) ∧
    (s.mode ≠ .halted → route s.cfg v = .absent → exec i s = .refused .absentVector) ∧
    (s.mode ≠ .halted → route s.cfg v ≠ .absent → ¬ fits → exec i s = .refused .sideValueShape) ∧
    (s.mode ≠ .halted → route s.cfg v ≠ .absent → fits → (route s.cfg v).isIrq = true →
      s.armed = false → exec i s = .next s) ∧
    (s.mode = .handling → route s.cfg v ≠ .absent → fits → (route s.cfg v).isIrq = true →
      exec i s = .next s) ∧
    (s.mode = .handling → route s.cfg v ≠ .absent → fits → (route s.cfg v).isIrq = false →
      exec i s = .next { s with faults := { s.faults with nestedException := true } })

/-- R117: the EOI is written to the master always and to the slave first when `irq ≥ 8`. -/
def Obligations.EoiGoesToTheSlaveFirst : Prop :=
  ∀ (irq : Nat) (s : State), sendEoi irq s = { s with
    trace := s.trace ++
      (if 8 ≤ irq then [.output 0xA0 s.cfg.eoiCmd, .output 0x20 s.cfg.eoiCmd]
        else [.output 0x20 s.cfg.eoiCmd]) }

/-- R120: every IRQ dispatch writes exactly one EOI, its line's, as its last events, and every
exception dispatch writes none, armed or not. -/
def Obligations.ExactlyOneEoiPerIrqDispatch : Prop :=
  ∀ (s t : State) (v : Byte) (err cr2 : Option Word32), s.mode = .idle →
    ((route s.cfg v).isIrq = true → s.armed = true) → s.mouse.phase ≠ 3 →
    exec (decode s.cfg (.vec8 v err cr2)) s = .next t →
    ∃ es : List Event, es.all (fun e => !e.isOut) = true ∧
      t.trace = s.trace ++ es ++
        (if (route s.cfg v).isIrq then eoiEvents s.cfg (v.toNat - s.cfg.irqBase.toNat) else [])

/-- R102: the return sets the mode to idle and ends the consumer's wait; a dispatch that runs ends
so, or, for the six handled exceptions, halted with the consumer where it was. -/
def Obligations.DispatchReturnsOrHalts : Prop :=
  (∀ s : State, ret s = { s with
    mode := .idle, conState := if s.conState = .asleep then .retry else s.conState }) ∧
  ∀ (s t : State) (v : Byte) (err cr2 : Option Word32), s.mode = .idle →
    ((route s.cfg v).isIrq = true → s.armed = true) → s.mouse.phase ≠ 3 →
    exec (decode s.cfg (.vec8 v err cr2)) s = .next t →
    if isTerminal (decode s.cfg (.vec8 v err cr2)) then
      t.mode = .halted ∧ t.conState = s.conState
    else t.mode = .idle ∧ t.conState = (if s.conState = .asleep then .retry else s.conState)

/-- R118, R164: HALTED is absorbing. No dispatch and no consumer command does anything, and a step
changes no register, no event and no halt reason. -/
def Obligations.HaltedIsAbsorbing : Prop :=
  (∀ (i : Instr) (s : State), s.mode = .halted → i.format = .vec8 ∨ i.format = .con2 →
    exec i s = .next s) ∧
  ∀ s : State, s.mode = .halted → s.cfg.ok = true →
    ∃ inputs, step s = .next { s with agents := { s.agents with inputs := inputs } }

/-- R103, R105 to R110: only the six handled exceptions halt the block, and then the halt reason
names the recorded vector. -/
def Obligations.OnlyHandledExceptionsHalt : Prop :=
  ∀ (i : Instr) (s t : State), exec i s = .next t → t.mode = .halted →
    s.mode = .halted ∨ (isTerminal i = true ∧ ∃ info, t.haltReason = some (t.curVector, info))

/-- The frame of the dispatches (R32, R39, R23, R100 to R116). The keyboard state is the keyboard
route's alone, but for `KB[head]` no slot of it changes, and `tail` never; the mouse and cursor
state are the mouse route's alone; `armed`, the HAS_KEY reply and the offers are nobody's; the halt
reason is the handled exceptions' alone; a fault is recorded only for a request inside a dispatch or
at phase 3. -/
def Obligations.DispatchFrame : Prop :=
  ∀ (i : Instr) (s t : State), i.format = .vec8 → exec i s = .next t →
    t.armed = s.armed ∧ t.hasKeyReply = s.hasKeyReply ∧ t.agents.inputs = s.agents.inputs ∧
    t.kb.tail = s.kb.tail ∧ (∀ a, a ≠ s.kb.head → t.kb.cells.read a = s.kb.cells.read a) ∧
    ((∀ err cr2, i ≠ .intIrqKbd err cr2) → t.kmod = s.kmod ∧ t.kb = s.kb) ∧
    ((∀ err cr2, i ≠ .intIrqMouse err cr2) → t.mouse = s.mouse ∧ t.cursor = s.cursor ∧
      t.agents.disp = s.agents.disp) ∧
    ((∀ err cr2, i ≠ .intIrqKbd err cr2) → (∀ err cr2, i ≠ .intIrqMouse err cr2) →
      t.agents = s.agents) ∧
    (isTerminal i = false → t.haltReason = s.haltReason) ∧
    (s.mode ≠ .handling → s.mouse.phase ≠ 3 → t.faults = s.faults)

/-! ### MW10: the mouse -/

/-- R180, R181, R182: the first byte with the marker bit and the X byte are stored and advance the
phase; a first byte without the marker bit is discarded; nothing else changes. -/
def Obligations.MouseBytesAreStoredOrDiscarded : Prop :=
  (∀ (s : State) (b : Byte),
    exec (.msSyncAccept b) s = .next { s with mouse := { s.mouse with pkt0 := b, phase := 1 } } ∧
    exec (.msSyncDiscard b) s = .next s ∧
    exec (.msByte1 b) s = .next { s with mouse := { s.mouse with pkt1 := b, phase := 2 } }) ∧
  ∀ (c : Cfg) (b : Byte),
    (b.getLsbD 3 = true → decode c (.mw10 (mouseWord 0 b)) = .msSyncAccept b) ∧
    (b.getLsbD 3 = false → decode c (.mw10 (mouseWord 0 b)) = .msSyncDiscard b) ∧
    decode c (.mw10 (mouseWord 1 b)) = .msByte1 b

/-- R183, R185, R186, R187, R188: the whole completion of a packet: the buttons, the clamped
position with the Y axis inverted, `MOUSE`, the restore of the saved cell where there is one, the
save of the new cell as DISP answers it, and the cursor drawn by `CURSOR_CELL`, whatever function
that is (a free value). -/
def Obligations.PacketCompletionMovesAndRedraws : Prop :=
  (∀ (c : Cfg) (b : Byte), decode c (.mw10 (mouseWord 2 b)) = .msByte2Complete b) ∧
  ∀ (s : State) (b g col : Byte) (agents : Agents),
    1 ≤ s.cfg.width → 1 ≤ s.cfg.height →
    (s.cursor.savedValid = true → inDisplay s.cfg s.cursor.savedX s.cursor.savedY = true) →
    dispAnswer s.agents = ((g, col), agents) →
    let p := s.mouse.pkt0
    let dx := mv s.mouse.pkt1 (p.getLsbD s.cfg.msXsign.val)
    let dy := mv b (p.getLsbD s.cfg.msYsign.val)
    let x := min (max (s.cursor.x + dx) 0) ((s.cfg.width : Int) - 1)
    let y := min (max (s.cursor.y - dy) 0) ((s.cfg.height : Int) - 1)
    let buttons : BitVec 3 := p.setWidth 3
    let k := s.cursor
    exec (.msByte2Complete b) s = .next { s with
      mouse := { s.mouse with pkt2 := b, phase := 0, buttons := buttons }
      cursor :=
        { x := x, y := y, savedValid := true, savedX := x, savedY := y, savedG := g, savedC := col }
      agents := agents
      trace := s.trace ++ [.mouse dx dy buttons] ++
        (if k.savedValid then [.dwrite k.savedX k.savedY k.savedG k.savedC] else []) ++
        [.dread x y,
          .dwrite x y (Config.cursorCell g col).1 (Config.cursorCell g col).2] }

/-- R184, R113: at phase 3 the byte, and the whole mouse dispatch, raise MOUSE_PHASE3 and change
nothing else. That a raised fault is a next state with its bit set is the model's reading of R11,
R26, R213 and R263 (log 5). -/
def Obligations.PhaseThreeRaisesTheFault : Prop :=
  (∀ (c : Cfg) (b : Byte), decode c (.mw10 (mouseWord 3 b)) = .msPhase3 b) ∧
  (∀ (s : State) (b : Byte),
    exec (.msPhase3 b) s = .next { s with faults := { s.faults with mousePhase3 := true } }) ∧
  ∀ s : State, s.cfg.ok = true → s.cfg.irqBase + 12 ∉ s.cfg.errcodeVectors → s.mode = .idle →
    s.armed = true → s.mouse.phase = 3 →
    exec (.intIrqMouse none none) s =
      .next { s with faults := { s.faults with mousePhase3 := true } }

/-- R76: the movement operand is the true 9-bit sign extension for every byte but 0, and 0 for a
byte 0 whatever its sign bit; `dx` and `dy` take their sign bits from the button byte. -/
def Obligations.MovementIsNineBitExceptZero : Prop :=
  (∀ (m : Byte) (sg : Bool), m ≠ 0 → mv m sg = (BitVec.ofBool sg ++ m).toInt) ∧
  (∀ sg : Bool, mv 0 sg = 0) ∧
  (∀ (m : Byte) (sg : Bool), mv m sg =
    if sg = true ∧ 0 < m.toNat then (m.toNat : Int) - 256 else (m.toNat : Int)) ∧
  ∀ (c : Cfg) (m : Mouse), packetDx c m = mv m.pkt1 (m.pkt0.getLsbD c.msXsign.val) ∧
    packetDy c m = mv m.pkt2 (m.pkt0.getLsbD c.msYsign.val)

/-- R189: the displacements lie in -255 to 255, the unclamped position in -255 to W + 254 and
-255 to H + 254, and the clamped position is in the display again. -/
def Obligations.MovementStaysInRange : Prop :=
  ∀ (c : Cfg) (m : Mouse) (x y : Int), inDisplay c x y = true →
    -255 ≤ packetDx c m ∧ packetDx c m ≤ 255 ∧ -255 ≤ packetDy c m ∧ packetDy c m ≤ 255 ∧
    -255 ≤ x + packetDx c m ∧ x + packetDx c m ≤ (c.width : Int) + 254 ∧
    -255 ≤ y - packetDy c m ∧ y - packetDy c m ≤ (c.height : Int) + 254 ∧
    inDisplay c (movedX c x (packetDx c m)) (movedY c y (packetDy c m)) = true

/-- The frame of the MW10 operations (R32, R180 to R187): only the assembler's registers change,
but for a completed packet, which also changes the cursor, the trace and DISP's answers, and phase
3, which sets its fault bit and nothing else. -/
def Obligations.MouseOperationsFrame : Prop :=
  ∀ (i : Instr) (s t : State), i.format = .mw10 → exec i s = .next t →
    t = { s with mouse := t.mouse, cursor := t.cursor, trace := t.trace, agents := t.agents
                 faults := t.faults } ∧
    t.agents.inputs = s.agents.inputs ∧ t.agents.ps2 = s.agents.ps2 ∧
    ((∀ b, i ≠ .msByte2Complete b) → t.cursor = s.cursor ∧ t.trace = s.trace ∧
      t.agents = s.agents ∧ t.mouse.pkt2 = s.mouse.pkt2 ∧ t.mouse.buttons = s.mouse.buttons) ∧
    ((∀ b, i ≠ .msSyncAccept b) → t.mouse.pkt0 = s.mouse.pkt0) ∧
    ((∀ b, i ≠ .msByte1 b) → t.mouse.pkt1 = s.mouse.pkt1) ∧
    ((∀ b, i ≠ .msPhase3 b) → t.faults = s.faults)

/-! ### CON2: the consumer -/

/-- R160, R164: HAS_KEY returns whether `head ≠ tail`; no event and no register of the block
changes. Where the returned value is kept is the model's own (log 13). -/
def Obligations.HasKeyReturnsTheEmptyTest : Prop :=
  (∀ s : State, s.mode = .idle → s.conState = .ready → exec .conHasKey s =
    .next { s with hasKeyReply := some (decide (s.kb.head ≠ s.kb.tail)) }) ∧
  (∀ s : State, s.mode = .halted → exec .conHasKey s = .next s) ∧
  ∀ c : Cfg, decode c (.con2 0) = .conHasKey

/-- R161: the TEST step pops the oldest character or marks the buffer empty, the HLT step sleeps,
the sleep holds until a dispatch returns, and there is no step when halted. -/
def Obligations.ReadCharTestsWaitsAndPops : Prop :=
  (∀ s : State, s.mode = .idle →
    (s.conState = .ready ∨ s.conState = .retry → s.kb.head ≠ s.kb.tail →
      s.kb.tail < s.cfg.kbufN →
      exec .conReadChar s = .next { s with
        kb := { s.kb with tail := (s.kb.tail + 1) % s.cfg.kbufN }
        conState := .ready
        trace := s.trace ++ [.read (s.kb.cells.read s.kb.tail)] }) ∧
    (s.conState = .ready ∨ s.conState = .retry → s.kb.head = s.kb.tail →
      exec .conReadChar s = .next { s with conState := .preHlt }) ∧
    (s.conState = .preHlt → exec .conReadChar s = .next { s with conState := .asleep }) ∧
    (s.conState = .asleep → exec .conReadChar s = .next s)) ∧
  (∀ s : State, s.mode = .halted → exec .conReadChar s = .next s) ∧
  (∀ s : State, s.conState = .asleep → (ret s).conState = .retry) ∧
  ∀ c : Cfg, decode c (.con2 1) = .conReadChar

/-- R162: ARM sets `armed` and nothing else; arming twice is arming once. -/
def Obligations.ArmEnablesInterrupts : Prop :=
  (∀ s : State, s.mode = .idle → s.conState = .ready →
    exec .conArm s = .next { s with armed := true } ∧
    exec .conArm { s with armed := true } = .next { s with armed := true }) ∧
  ∀ c : Cfg, decode c (.con2 2) = .conArm

/-- R163, R164: the reserved command is refused, and a halted block takes no step. -/
def Obligations.ReservedCommandIsRefused : Prop :=
  (∀ s : State, exec .conReserved s =
    if s.mode = .halted then .next s else .refused .reservedCon) ∧
  ∀ c : Cfg, decode c (.con2 3) = .conReserved

/-- R45, R4: HAS_KEY and ARM offered while a READ_CHAR is in progress, and HAS_KEY, ARM and READ_CHAR
offered inside a dispatch or to a halted block, are held: the model's reading of "issues only from
READY" (log 4). The reserved command is refused there instead: `ReservedCommandIsRefused`. -/
def Obligations.CommandsOutOfTurnAreHeld : Prop :=
  ∀ s : State, (s.mode ≠ .idle ∨ s.conState ≠ .ready) →
    exec .conHasKey s = .next s ∧ exec .conArm s = .next s ∧
      (s.mode ≠ .idle → exec .conReadChar s = .next s)

/-- The frame of the CON2 operations (R32, R160 to R162): READ_CHAR alone changes `tail`,
`con_state` and the trace, ARM alone `armed`, HAS_KEY alone its reply; nothing else changes. -/
def Obligations.ConsumerOperationsFrame : Prop :=
  ∀ (i : Instr) (s t : State), i.format = .con2 → exec i s = .next t →
    t = { s with kb := t.kb, conState := t.conState, trace := t.trace, armed := t.armed
                 hasKeyReply := t.hasKeyReply } ∧
    t.kb.cells = s.kb.cells ∧ t.kb.head = s.kb.head ∧
    (i ≠ .conReadChar → t.kb = s.kb ∧ t.conState = s.conState ∧ t.trace = s.trace) ∧
    (i ≠ .conArm → t.armed = s.armed) ∧ (i ≠ .conHasKey → t.hasKeyReply = s.hasKeyReply)

/-! ### Rules of the whole machine -/

/-- R23: only ARM enables interrupts, and nothing disables them again. -/
def Obligations.OnlyArmWritesArmed : Prop :=
  ∀ (i : Instr) (s t : State), exec i s = .next t →
    t.armed = s.armed ∨ (i = .conArm ∧ t.armed = true)

/-- R12, R26, R213: no operation takes an event off the trace or clears a fault. -/
def Obligations.NothingRecordedIsErased : Prop :=
  ∀ (i : Instr) (s t : State), exec i s = .next t →
    (∃ es, t.trace = s.trace ++ es) ∧
    (s.faults.mousePhase3 = true → t.faults.mousePhase3 = true) ∧
    (s.faults.nestedException = true → t.faults.nestedException = true)

/-- R253: while `armed = 0` no step enqueues a character, and only an unhandled exception wakes the
sleeping consumer. -/
def Obligations.UnarmedNothingIsEnqueued : Prop :=
  ∀ s t : State, s.armed = false → s.mode = .idle → step s = .next t →
    t.kb.cells = s.kb.cells ∧ t.kb.head = s.kb.head ∧
    (s.conState = .asleep → t.conState = .asleep ∨
      (t.conState = .retry ∧ ∃ v err cr2 rest,
        s.agents.inputs = .int v err cr2 :: rest ∧ route s.cfg v = .excUnhandled))

/-- R253, the check-then-wait race: a keyboard dispatch between READ_CHAR's TEST and HLT steps
enqueues its character and leaves the consumer to sleep with a character in the buffer. -/
def Obligations.CheckThenWaitRaceIsAdmitted : Prop :=
  ∀ (s : State) (b ch : Byte) (agents : Agents),
    s.cfg.ok = true → s.cfg.irqBase + 1 ∉ s.cfg.errcodeVectors → s.mode = .idle →
    s.armed = true → s.conState = .preHlt → s.kb.head = s.kb.tail → s.kb.head < s.cfg.kbufN →
    ps2Answer s.agents = (b, agents) → (kbdDecode s.cfg s.kmod b).2 = some ch →
    ∃ t u, exec (.intIrqKbd none none) s = .next t ∧ exec .conReadChar t = .next u ∧
      u.conState = .asleep ∧ u.kb.head ≠ u.kb.tail ∧ u.mode = .idle

/-- R29: nothing the block does depends on `alt`. Two states that differ in `alt` alone answer alike
on every operation, and their next states differ in `alt` alone. -/
def Obligations.AltHasNoEffectOnAnythingElse : Prop :=
  ∀ (i : Instr) (s : State) (a : Bool),
    match exec i s, exec i { s with kmod := { s.kmod with alt := a } } with
    | .next t, .next u => u = { t with kmod := { t.kmod with alt := u.kmod.alt } }
    | .fault e, .fault f => e = f
    | .refused e, .refused f => e = f
    | _, _ => False

/-! ### Runs -/

/-- R251, R263, R41, R213: along every run under `BootDone`, finite or infinite, the configuration
stays, both invariants hold, no fault is ever recorded and no dispatch is in flight between steps.
What a run is, the agents' free choices in it, is the model's reading (log 19). -/
def Obligations.RunsKeepTheInvariants : Prop :=
  ∀ (σ : Nat → State) (last : Option Nat), IsRun σ last → ∀ n, withinRun last n →
    (σ n).cfg = (σ 0).cfg ∧ RegistersOk (σ n) ∧ KeyBufferOk (σ n) ∧ noFaultRecorded (σ n) ∧
      (σ n).mode ≠ .handling

/-- R263: a run ends halted, its reason recorded; or refused, for side values that do not fit or the
reserved command, which only an offer that R264 forbids the host can bring; or stopped, IDLE with
nothing offered; never by a fault of the model. After each of these ends there is no further step,
and where the run has not ended there is one (what a run is: log 19). -/
def Obligations.RunsEndInOneOfThreeWays : Prop :=
  ∀ (σ : Nat → State) (n : Nat), IsRun σ (some n) →
    match runEnd (σ n) with
    | .halted why => (σ n).mode = .halted ∧ why = (σ n).haltReason ∧ why ≠ none ∧
        ∀ t, ¬ RunStep (σ n) t
    | .refused r => (r = .sideValueShape ∨ r = .reservedCon) ∧
        (∃ o rest, (σ n).agents.inputs = o :: rest ∧ o.legal (σ n).cfg = false) ∧
        ∀ t, ¬ RunStep (σ n) t
    | .faulted _ => False
    | .stopped => (σ n).mode = .idle ∧ (σ n).agents.inputs = [] ∧ ∀ t, ¬ RunStep (σ n) t
    | .running => ∃ t, RunStep (σ n) t

/-- R263, R253: in every configuration R8 allows there is a run of each kind: one that halts, one
that is refused, one that stops, and one without end in which `READ_CHAR` waits and never reads. -/
def Obligations.EveryEndOfARunOccurs : Prop :=
  ∀ c : Cfg, c.ok = true →
    (∃ σ n why, IsRun σ (some n) ∧ (σ 0).cfg = c ∧ runEnd (σ n) = .halted (some why)) ∧
    (∃ σ n r, IsRun σ (some n) ∧ (σ 0).cfg = c ∧ runEnd (σ n) = .refused r) ∧
    (∃ σ n, IsRun σ (some n) ∧ (σ 0).cfg = c ∧ runEnd (σ n) = .stopped) ∧
    ∃ σ, IsRun σ none ∧ (σ 0).cfg = c ∧ (σ 1).conState = .preHlt ∧
      ∀ n, (σ (n + 2)).conState = .asleep ∧ (σ (n + 2)).trace = []
end

