-- ==== Sys2Proof/Laws/Decode.lean ====
section
/-! SUPPORT. The small lemmas of the words' fields, of a configuration's check and of the route
function (30_encoding.md rules R71 to R81, 00_scope.md rule R8, 40_dispatch.md rule R104). -/

namespace Sys2Proof

/-! ### Fields of words -/

@[simp] theorem scReleased_makeCode (idx : KeyIdx) : scReleased (makeCode idx) = false := by
  revert idx; decide

@[simp] theorem scReleased_breakCode (idx : KeyIdx) : scReleased (breakCode idx) = true := by
  revert idx; decide

@[simp] theorem scIdx_makeCode (idx : KeyIdx) : scIdx (makeCode idx) = idx := by
  revert idx; decide

@[simp] theorem scIdx_breakCode (idx : KeyIdx) : scIdx (breakCode idx) = idx := by
  revert idx; decide

/-- A pressed scancode is the make code of its index. -/
theorem makeCode_scIdx {sc : Byte} (h : scReleased sc = false) : makeCode (scIdx sc) = sc := by
  revert sc; decide

/-- A released scancode is the break code of its index. -/
theorem breakCode_scIdx {sc : Byte} (h : scReleased sc = true) : breakCode (scIdx sc) = sc := by
  revert sc; decide

@[simp] theorem mwPhase_mouseWord (ph : BitVec 2) (b : Byte) : mwPhase (mouseWord ph b) = ph :=
  BitVec.extractLsb'_append_eq_left

@[simp] theorem mwByte_mouseWord (ph : BitVec 2) (b : Byte) : mwByte (mouseWord ph b) = b :=
  BitVec.setWidth_append_eq_right

/-- An MW10 word is its phase and its byte. -/
@[simp] theorem mouseWord_fields (w : BitVec 10) : mouseWord (mwPhase w) (mwByte w) = w := by
  revert w; decide

/-! ### Configurations -/

/-- A plain key is none of the five modifiers. -/
theorem plainKey_iff {c : Cfg} {idx : KeyIdx} :
    c.plainKey idx = true ↔ idx ≠ c.scLshift ∧ idx ≠ c.scRshift ∧ idx ≠ c.scCtrl ∧
      idx ≠ c.scAlt ∧ idx ≠ c.scCaps := by
  simp [Cfg.plainKey, Cfg.modifiers]

/-- What rule R8 says of the IRQ block. -/
theorem ok_irqBase {c : Cfg} (h : c.ok = true) :
    32 ≤ c.irqBase.toNat ∧ c.irqBase.toNat + 15 ≤ 255 ∧ c.irqBase.toNat % 8 = 0 := by
  simp only [Cfg.ok, Bool.and_eq_true, decide_eq_true_eq] at h
  tauto

/-- What rule R8 says of the buffer and the display. -/
theorem ok_sizes {c : Cfg} (h : c.ok = true) :
    2 ≤ c.kbufN ∧ c.kbufN ≤ 65536 ∧ 1 ≤ c.width ∧ 1 ≤ c.height := by
  simp only [Cfg.ok, Bool.and_eq_true, decide_eq_true_eq] at h
  tauto

/-- What rule R8 says of the modifier indices: the five are distinct. -/
theorem ok_modifiers {c : Cfg} (h : c.ok = true) : c.modifiers.Nodup := by
  simp only [Cfg.ok, Bool.and_eq_true, decide_eq_true_eq] at h
  tauto

/-- The keyboard's vector does not wrap. -/
theorem toNat_irqBase_one {c : Cfg} (h : c.ok = true) :
    (c.irqBase + 1).toNat = c.irqBase.toNat + 1 := by
  have := ok_irqBase h
  rw [BitVec.toNat_add]
  show (c.irqBase.toNat + 1) % 256 = _
  omega

/-- The mouse's vector does not wrap. -/
theorem toNat_irqBase_twelve {c : Cfg} (h : c.ok = true) :
    (c.irqBase + 12).toNat = c.irqBase.toNat + 12 := by
  have := ok_irqBase h
  rw [BitVec.toNat_add]
  show (c.irqBase.toNat + 12) % 256 = _
  omega

/-! ### The opcode table -/

/-- A row that does not match is passed over (rule R78, step 2). -/
theorem mostSpecific_skip {r : Row} {rs : List Row} {w : BitVec 10} (h : r.hits w = false) :
    mostSpecific (r :: rs) w = mostSpecific rs w := by
  rw [mostSpecific]
  cases mostSpecific rs w <;> simp [h]

/-- The row picked is one of the rows (rule R78). -/
theorem mostSpecific_mem {rs : List Row} {w : BitVec 10} {q : Row}
    (h : mostSpecific rs w = some q) : q ∈ rs := by
  induction rs generalizing q with
  | nil => cases h
  | cons r rs ih =>
    rw [mostSpecific] at h
    cases hm : mostSpecific rs w with
    | none =>
      rw [hm] at h
      dsimp only at h
      split at h
      · cases h; exact List.mem_cons_self
      · cases h
    | some p =>
      rw [hm] at h
      dsimp only at h
      split at h
      · cases h; exact List.mem_cons_self
      · cases h; exact List.mem_cons_of_mem _ (ih hm)

/-- A row that matches is picked where no later row has more mask bits (rule R78, step 3). -/
theorem mostSpecific_take {r : Row} {rs : List Row} {w : BitVec 10} (h : r.hits w = true)
    (hm : ∀ q ∈ rs, maskOnes q.mask ≤ maskOnes r.mask) : mostSpecific (r :: rs) w = some r := by
  rw [mostSpecific]
  cases hq : mostSpecific rs w with
  | none => simp [h]
  | some q => simp [h, hm q (mostSpecific_mem hq)]

/-! ### The route function -/

theorem route_timer {c : Cfg} (h : c.ok = true) : route c c.irqBase = .timer := by
  have := ok_irqBase h
  unfold route
  repeat rw [if_neg (by omega)]
  rw [if_pos rfl]

theorem route_kbd {c : Cfg} (h : c.ok = true) : route c (c.irqBase + 1) = .kbd := by
  have := ok_irqBase h
  have := toNat_irqBase_one h
  unfold route
  repeat rw [if_neg (by omega)]
  rw [if_pos (by omega)]

theorem route_mouse {c : Cfg} (h : c.ok = true) : route c (c.irqBase + 12) = .mouse := by
  have := ok_irqBase h
  have := toNat_irqBase_twelve h
  unfold route
  repeat rw [if_neg (by omega)]
  rw [if_pos (by omega)]

/-- The other vectors of the IRQ block (rules R104, R114). -/
theorem route_irqUnhandled {c : Cfg} {v : Byte} (h : c.ok = true)
    (hv : c.irqBase.toNat ≤ v.toNat ∧ v.toNat ≤ c.irqBase.toNat + 15)
    (h0 : v.toNat ≠ c.irqBase.toNat) (h1 : v.toNat ≠ c.irqBase.toNat + 1)
    (h12 : v.toNat ≠ c.irqBase.toNat + 12) : route c v = .irqUnhandled := by
  have := ok_irqBase h
  unfold route
  repeat rw [if_neg (by omega)]
  rw [if_pos hv]

/-- The six handled exception vectors as numbers. -/
theorem not_handled_iff {v : Byte} : v ∉ handledExceptions ↔
    v.toNat ≠ 0 ∧ v.toNat ≠ 1 ∧ v.toNat ≠ 3 ∧ v.toNat ≠ 8 ∧ v.toNat ≠ 13 ∧ v.toNat ≠ 14 := by
  simp [handledExceptions, ← BitVec.toNat_inj]

/-- The other exception vectors (rules R104, R115). -/
theorem route_excUnhandled {c : Cfg} {v : Byte} (h : c.ok = true) (hv : v.toNat ≤ 31)
    (hn : v ∉ handledExceptions) : route c v = .excUnhandled := by
  have := ok_irqBase h
  have := not_handled_iff.mp hn
  unfold route
  repeat rw [if_neg (by omega)]
  rw [if_pos hv]

/-- The vectors without a gate (rules R57, R104, R116). -/
theorem route_absent {c : Cfg} {v : Byte} (h : c.ok = true) (hv : 31 < v.toNat)
    (hn : ¬ (c.irqBase.toNat ≤ v.toNat ∧ v.toNat ≤ c.irqBase.toNat + 15)) :
    route c v = .absent := by
  have := ok_irqBase h
  unfold route
  repeat rw [if_neg (by omega)]

end Sys2Proof
end

