-- ==== Sys2Proof/Laws/Memory.lean ====
section
/-! SUPPORT. The laws of the key buffer's array: read after write, the canonical form, the bound on
its slots. -/

namespace Sys2Proof.Machine

@[simp] theorem memory_read_nil (a : Nat) : Memory.read [] a = unlistedByte := rfl

@[simp] theorem memory_wf_nil : Memory.wf [] = true := rfl

@[simp] theorem memory_below_nil (n : Nat) : Memory.below [] n = true := rfl

theorem memory_wf_cons {k : Nat} {x : Byte} {m : Memory} :
    Memory.wf ((k, x) :: m) = true ↔
      x ≠ unlistedByte ∧ (∀ cell ∈ m, k < cell.1) ∧ Memory.wf m = true := by
  simp [Memory.wf, and_assoc]

theorem memory_below_iff {m : Memory} {n : Nat} :
    Memory.below m n = true ↔ ∀ cell ∈ m, cell.1 < n := by
  simp [Memory.below]

/-- A slot below every listed one reads as unlisted. -/
theorem memory_read_of_lt {m : Memory} {a : Nat} (h : ∀ cell ∈ m, a < cell.1) :
    Memory.read m a = unlistedByte := by
  induction m with
  | nil => rfl
  | cons cell m ih =>
    obtain ⟨k, x⟩ := cell
    have hk : a < k := h (k, x) (by simp)
    have : a ≠ k := by omega
    simp only [Memory.read, if_neg this]
    exact ih fun c hc => h c (by simp [hc])

/-- Reading the slot just written gives the value written. -/
theorem memory_read_write_same {m : Memory} (h : Memory.wf m = true) (a : Nat) (v : Byte) :
    Memory.read (Memory.write m a v) a = v := by
  induction m with
  | nil => by_cases hv : v = unlistedByte <;> simp [Memory.write, Memory.read, hv]
  | cons cell m ih =>
    obtain ⟨k, x⟩ := cell
    obtain ⟨_, hk, hm⟩ := memory_wf_cons.mp h
    by_cases hlt : a < k
    · have hne : a ≠ k := by omega
      have hread : Memory.read m a = unlistedByte :=
        memory_read_of_lt fun c hc => Nat.lt_trans hlt (hk c hc)
      by_cases hv : v = unlistedByte <;> simp [Memory.write, Memory.read, hlt, hv, hne, hread]
    · by_cases heq : a = k
      · subst heq
        have hread : Memory.read m a = unlistedByte := memory_read_of_lt hk
        by_cases hv : v = unlistedByte <;> simp [Memory.write, Memory.read, hv, hread]
      · simp [Memory.write, Memory.read, hlt, heq, ih hm]

/-- Writing one slot leaves every other slot as it was. -/
theorem memory_read_write_other {m : Memory} {a b : Nat} (hab : b ≠ a) (v : Byte) :
    Memory.read (Memory.write m a v) b = Memory.read m b := by
  induction m with
  | nil => by_cases hv : v = unlistedByte <;> simp [Memory.write, Memory.read, hv, hab]
  | cons cell m ih =>
    obtain ⟨k, x⟩ := cell
    by_cases hlt : a < k
    · by_cases hv : v = unlistedByte <;> simp [Memory.write, Memory.read, hlt, hv, hab]
    · by_cases heq : a = k
      · subst heq
        by_cases hv : v = unlistedByte <;> simp [Memory.write, Memory.read, hv, hab]
      · simp [Memory.write, Memory.read, hlt, heq, ih]

/-- A cell of the array after a write is the cell written or one that was there. -/
theorem memory_mem_write {m : Memory} {a : Nat} {v : Byte} {cell : Host.Cell}
    (h : cell ∈ Memory.write m a v) : cell = (a, v) ∨ cell ∈ m := by
  induction m with
  | nil => by_cases hv : v = unlistedByte <;> simp_all [Memory.write]
  | cons head m ih =>
    obtain ⟨k, x⟩ := head
    simp only [Memory.write] at h
    split at h
    · split at h
      · exact .inr h
      · rcases List.mem_cons.mp h with rfl | h'
        · exact .inl rfl
        · exact .inr h'
    · split at h
      · split at h
        · exact .inr (List.mem_cons_of_mem _ h)
        · rcases List.mem_cons.mp h with rfl | h'
          · exact .inl rfl
          · exact .inr (List.mem_cons_of_mem _ h')
      · rcases List.mem_cons.mp h with rfl | h'
        · exact .inr (by simp)
        · rcases ih h' with rfl | h''
          · exact .inl rfl
          · exact .inr (List.mem_cons_of_mem _ h'')

/-- A write keeps the canonical form. -/
theorem memory_write_wf {m : Memory} (h : Memory.wf m = true) (a : Nat) (v : Byte) :
    Memory.wf (Memory.write m a v) = true := by
  induction m with
  | nil => by_cases hv : v = unlistedByte <;> simp [Memory.write, Memory.wf, hv]
  | cons cell m ih =>
    obtain ⟨k, x⟩ := cell
    obtain ⟨hx, hk, hm⟩ := memory_wf_cons.mp h
    simp only [Memory.write]
    split
    · rename_i hlt
      split
      · exact h
      · rename_i hv
        refine memory_wf_cons.mpr ⟨hv, ?_, h⟩
        intro c hc
        rcases List.mem_cons.mp hc with rfl | hc
        · exact hlt
        · exact Nat.lt_trans hlt (hk c hc)
    · split
      · rename_i heq
        subst heq
        split
        · exact hm
        · rename_i hv
          exact memory_wf_cons.mpr ⟨hv, hk, hm⟩
      · rename_i hlt hne
        refine memory_wf_cons.mpr ⟨hx, ?_, ih hm⟩
        intro c hc
        rcases memory_mem_write hc with rfl | hc
        · show k < a
          omega
        · exact hk c hc

/-- A write to a slot below `n` keeps every listed slot below `n`. -/
theorem memory_write_below {m : Memory} {n a : Nat} (h : Memory.below m n = true) (ha : a < n)
    (v : Byte) : Memory.below (Memory.write m a v) n = true := by
  rw [memory_below_iff] at h ⊢
  intro c hc
  rcases memory_mem_write hc with rfl | hc
  · exact ha
  · exact h c hc

/-- Reset memory is in canonical form. -/
theorem reset_memory_wf : State.reset.kb.cells.wf = true := rfl

end Sys2Proof.Machine
end

