-- ==== Sys2Proof/Laws/State.lean ====
section
/-! SUPPORT. What each named update does to each field of the state: the small lemmas later proofs
rewrite with, so that none of them unfolds a record update. -/

namespace Sys2Proof.Machine

/-- The events of the restore of rule R187. -/
def restoreEvents (k : Cursor) : List Event :=
  if k.savedValid then [.dwrite k.savedX k.savedY k.savedG k.savedC] else []

/-- The cursor registers after the save of rule R187. -/
def savedCursor (k : Cursor) (cell : Byte × Byte) : Cursor :=
  { k with savedValid := true, savedX := k.x, savedY := k.y, savedG := cell.1, savedC := cell.2 }

/-- The event that draws the cursor (rule R187). -/
def drawEvent (k : Cursor) : Event :=
  .dwrite k.x k.y (Config.cursorCell k.savedG k.savedC).1 (Config.cursorCell k.savedG k.savedC).2

variable (s : State)

/-! ### emit -/

@[simp] theorem emit_cfg (e : Event) : (emit e s).cfg = s.cfg := rfl
@[simp] theorem emit_mode (e : Event) : (emit e s).mode = s.mode := rfl
@[simp] theorem emit_armed (e : Event) : (emit e s).armed = s.armed := rfl
@[simp] theorem emit_curVector (e : Event) : (emit e s).curVector = s.curVector := rfl
@[simp] theorem emit_curErr (e : Event) : (emit e s).curErr = s.curErr := rfl
@[simp] theorem emit_haltReason (e : Event) : (emit e s).haltReason = s.haltReason := rfl
@[simp] theorem emit_faults (e : Event) : (emit e s).faults = s.faults := rfl
@[simp] theorem emit_kmod (e : Event) : (emit e s).kmod = s.kmod := rfl
@[simp] theorem emit_kb (e : Event) : (emit e s).kb = s.kb := rfl
@[simp] theorem emit_mouse (e : Event) : (emit e s).mouse = s.mouse := rfl
@[simp] theorem emit_cursor (e : Event) : (emit e s).cursor = s.cursor := rfl
@[simp] theorem emit_conState (e : Event) : (emit e s).conState = s.conState := rfl
@[simp] theorem emit_trace (e : Event) : (emit e s).trace = s.trace ++ [e] := rfl
@[simp] theorem emit_hasKeyReply (e : Event) : (emit e s).hasKeyReply = s.hasKeyReply := rfl
@[simp] theorem emit_agents (e : Event) : (emit e s).agents = s.agents := rfl

/-! ### portIn -/

@[simp] theorem portIn_cfg (p : Port) : (portIn p s).cfg = s.cfg := rfl
@[simp] theorem portIn_mode (p : Port) : (portIn p s).mode = s.mode := rfl
@[simp] theorem portIn_armed (p : Port) : (portIn p s).armed = s.armed := rfl
@[simp] theorem portIn_curVector (p : Port) : (portIn p s).curVector = s.curVector := rfl
@[simp] theorem portIn_curErr (p : Port) : (portIn p s).curErr = s.curErr := rfl
@[simp] theorem portIn_haltReason (p : Port) : (portIn p s).haltReason = s.haltReason := rfl
@[simp] theorem portIn_faults (p : Port) : (portIn p s).faults = s.faults := rfl
@[simp] theorem portIn_kmod (p : Port) : (portIn p s).kmod = s.kmod := rfl
@[simp] theorem portIn_kb (p : Port) : (portIn p s).kb = s.kb := rfl
@[simp] theorem portIn_mouse (p : Port) : (portIn p s).mouse = s.mouse := rfl
@[simp] theorem portIn_cursor (p : Port) : (portIn p s).cursor = s.cursor := rfl
@[simp] theorem portIn_conState (p : Port) : (portIn p s).conState = s.conState := rfl
@[simp] theorem portIn_trace (p : Port) : (portIn p s).trace = s.trace ++ [.input p (ps2Byte s)] := rfl
@[simp] theorem portIn_hasKeyReply (p : Port) : (portIn p s).hasKeyReply = s.hasKeyReply := rfl
@[simp] theorem portIn_agents (p : Port) : (portIn p s).agents = (ps2Answer s.agents).2 := rfl

/-! ### portOut -/

@[simp] theorem portOut_cfg (p : Port) (v : Byte) : (portOut p v s).cfg = s.cfg := rfl
@[simp] theorem portOut_mode (p : Port) (v : Byte) : (portOut p v s).mode = s.mode := rfl
@[simp] theorem portOut_armed (p : Port) (v : Byte) : (portOut p v s).armed = s.armed := rfl
@[simp] theorem portOut_curVector (p : Port) (v : Byte) : (portOut p v s).curVector = s.curVector := rfl
@[simp] theorem portOut_curErr (p : Port) (v : Byte) : (portOut p v s).curErr = s.curErr := rfl
@[simp] theorem portOut_haltReason (p : Port) (v : Byte) : (portOut p v s).haltReason = s.haltReason := rfl
@[simp] theorem portOut_faults (p : Port) (v : Byte) : (portOut p v s).faults = s.faults := rfl
@[simp] theorem portOut_kmod (p : Port) (v : Byte) : (portOut p v s).kmod = s.kmod := rfl
@[simp] theorem portOut_kb (p : Port) (v : Byte) : (portOut p v s).kb = s.kb := rfl
@[simp] theorem portOut_mouse (p : Port) (v : Byte) : (portOut p v s).mouse = s.mouse := rfl
@[simp] theorem portOut_cursor (p : Port) (v : Byte) : (portOut p v s).cursor = s.cursor := rfl
@[simp] theorem portOut_conState (p : Port) (v : Byte) : (portOut p v s).conState = s.conState := rfl
@[simp] theorem portOut_trace (p : Port) (v : Byte) : (portOut p v s).trace = s.trace ++ [.output p v] := rfl
@[simp] theorem portOut_hasKeyReply (p : Port) (v : Byte) : (portOut p v s).hasKeyReply = s.hasKeyReply := rfl
@[simp] theorem portOut_agents (p : Port) (v : Byte) : (portOut p v s).agents = s.agents := rfl

/-! ### dispRead -/

@[simp] theorem dispRead_cfg (x y : Int) : (dispRead x y s).cfg = s.cfg := rfl
@[simp] theorem dispRead_mode (x y : Int) : (dispRead x y s).mode = s.mode := rfl
@[simp] theorem dispRead_armed (x y : Int) : (dispRead x y s).armed = s.armed := rfl
@[simp] theorem dispRead_curVector (x y : Int) : (dispRead x y s).curVector = s.curVector := rfl
@[simp] theorem dispRead_curErr (x y : Int) : (dispRead x y s).curErr = s.curErr := rfl
@[simp] theorem dispRead_haltReason (x y : Int) : (dispRead x y s).haltReason = s.haltReason := rfl
@[simp] theorem dispRead_faults (x y : Int) : (dispRead x y s).faults = s.faults := rfl
@[simp] theorem dispRead_kmod (x y : Int) : (dispRead x y s).kmod = s.kmod := rfl
@[simp] theorem dispRead_kb (x y : Int) : (dispRead x y s).kb = s.kb := rfl
@[simp] theorem dispRead_mouse (x y : Int) : (dispRead x y s).mouse = s.mouse := rfl
@[simp] theorem dispRead_cursor (x y : Int) : (dispRead x y s).cursor = s.cursor := rfl
@[simp] theorem dispRead_conState (x y : Int) : (dispRead x y s).conState = s.conState := rfl
@[simp] theorem dispRead_trace (x y : Int) : (dispRead x y s).trace = s.trace ++ [.dread x y] := rfl
@[simp] theorem dispRead_hasKeyReply (x y : Int) : (dispRead x y s).hasKeyReply = s.hasKeyReply := rfl
@[simp] theorem dispRead_agents (x y : Int) : (dispRead x y s).agents = (dispAnswer s.agents).2 := rfl

/-! ### dispWrite -/

@[simp] theorem dispWrite_cfg (x y : Int) (g c : Byte) : (dispWrite x y g c s).cfg = s.cfg := rfl
@[simp] theorem dispWrite_mode (x y : Int) (g c : Byte) : (dispWrite x y g c s).mode = s.mode := rfl
@[simp] theorem dispWrite_armed (x y : Int) (g c : Byte) : (dispWrite x y g c s).armed = s.armed := rfl
@[simp] theorem dispWrite_curVector (x y : Int) (g c : Byte) : (dispWrite x y g c s).curVector = s.curVector := rfl
@[simp] theorem dispWrite_curErr (x y : Int) (g c : Byte) : (dispWrite x y g c s).curErr = s.curErr := rfl
@[simp] theorem dispWrite_haltReason (x y : Int) (g c : Byte) : (dispWrite x y g c s).haltReason = s.haltReason := rfl
@[simp] theorem dispWrite_faults (x y : Int) (g c : Byte) : (dispWrite x y g c s).faults = s.faults := rfl
@[simp] theorem dispWrite_kmod (x y : Int) (g c : Byte) : (dispWrite x y g c s).kmod = s.kmod := rfl
@[simp] theorem dispWrite_kb (x y : Int) (g c : Byte) : (dispWrite x y g c s).kb = s.kb := rfl
@[simp] theorem dispWrite_mouse (x y : Int) (g c : Byte) : (dispWrite x y g c s).mouse = s.mouse := rfl
@[simp] theorem dispWrite_cursor (x y : Int) (g c : Byte) : (dispWrite x y g c s).cursor = s.cursor := rfl
@[simp] theorem dispWrite_conState (x y : Int) (g c : Byte) : (dispWrite x y g c s).conState = s.conState := rfl
@[simp] theorem dispWrite_trace (x y : Int) (g c : Byte) : (dispWrite x y g c s).trace = s.trace ++ [.dwrite x y g c] := rfl
@[simp] theorem dispWrite_hasKeyReply (x y : Int) (g c : Byte) : (dispWrite x y g c s).hasKeyReply = s.hasKeyReply := rfl
@[simp] theorem dispWrite_agents (x y : Int) (g c : Byte) : (dispWrite x y g c s).agents = s.agents := rfl

/-! ### enter -/

@[simp] theorem enter_cfg (v : Byte) (err : Option Word32) : (enter v err s).cfg = s.cfg := rfl
@[simp] theorem enter_mode (v : Byte) (err : Option Word32) : (enter v err s).mode = .handling := rfl
@[simp] theorem enter_armed (v : Byte) (err : Option Word32) : (enter v err s).armed = s.armed := rfl
@[simp] theorem enter_curVector (v : Byte) (err : Option Word32) : (enter v err s).curVector = v := rfl
@[simp] theorem enter_curErr (v : Byte) (err : Option Word32) : (enter v err s).curErr = err := rfl
@[simp] theorem enter_haltReason (v : Byte) (err : Option Word32) : (enter v err s).haltReason = s.haltReason := rfl
@[simp] theorem enter_faults (v : Byte) (err : Option Word32) : (enter v err s).faults = s.faults := rfl
@[simp] theorem enter_kmod (v : Byte) (err : Option Word32) : (enter v err s).kmod = s.kmod := rfl
@[simp] theorem enter_kb (v : Byte) (err : Option Word32) : (enter v err s).kb = s.kb := rfl
@[simp] theorem enter_mouse (v : Byte) (err : Option Word32) : (enter v err s).mouse = s.mouse := rfl
@[simp] theorem enter_cursor (v : Byte) (err : Option Word32) : (enter v err s).cursor = s.cursor := rfl
@[simp] theorem enter_conState (v : Byte) (err : Option Word32) : (enter v err s).conState = s.conState := rfl
@[simp] theorem enter_trace (v : Byte) (err : Option Word32) : (enter v err s).trace = s.trace := rfl
@[simp] theorem enter_hasKeyReply (v : Byte) (err : Option Word32) : (enter v err s).hasKeyReply = s.hasKeyReply := rfl
@[simp] theorem enter_agents (v : Byte) (err : Option Word32) : (enter v err s).agents = s.agents := rfl

/-! ### ret -/

@[simp] theorem ret_cfg : (ret s).cfg = s.cfg := rfl
@[simp] theorem ret_mode : (ret s).mode = .idle := rfl
@[simp] theorem ret_armed : (ret s).armed = s.armed := rfl
@[simp] theorem ret_curVector : (ret s).curVector = s.curVector := rfl
@[simp] theorem ret_curErr : (ret s).curErr = s.curErr := rfl
@[simp] theorem ret_haltReason : (ret s).haltReason = s.haltReason := rfl
@[simp] theorem ret_faults : (ret s).faults = s.faults := rfl
@[simp] theorem ret_kmod : (ret s).kmod = s.kmod := rfl
@[simp] theorem ret_kb : (ret s).kb = s.kb := rfl
@[simp] theorem ret_mouse : (ret s).mouse = s.mouse := rfl
@[simp] theorem ret_cursor : (ret s).cursor = s.cursor := rfl
@[simp] theorem ret_conState : (ret s).conState = s.conState.wake := rfl
@[simp] theorem ret_trace : (ret s).trace = s.trace := rfl
@[simp] theorem ret_hasKeyReply : (ret s).hasKeyReply = s.hasKeyReply := rfl
@[simp] theorem ret_agents : (ret s).agents = s.agents := rfl

/-! ### halt -/

@[simp] theorem halt_cfg (k : ReportKind) : (halt k s).cfg = s.cfg := rfl
@[simp] theorem halt_mode (k : ReportKind) : (halt k s).mode = .halted := rfl
@[simp] theorem halt_armed (k : ReportKind) : (halt k s).armed = s.armed := rfl
@[simp] theorem halt_curVector (k : ReportKind) : (halt k s).curVector = s.curVector := rfl
@[simp] theorem halt_curErr (k : ReportKind) : (halt k s).curErr = s.curErr := rfl
@[simp] theorem halt_haltReason (k : ReportKind) : (halt k s).haltReason = s.haltReason := rfl
@[simp] theorem halt_faults (k : ReportKind) : (halt k s).faults = s.faults := rfl
@[simp] theorem halt_kmod (k : ReportKind) : (halt k s).kmod = s.kmod := rfl
@[simp] theorem halt_kb (k : ReportKind) : (halt k s).kb = s.kb := rfl
@[simp] theorem halt_mouse (k : ReportKind) : (halt k s).mouse = s.mouse := rfl
@[simp] theorem halt_cursor (k : ReportKind) : (halt k s).cursor = s.cursor := rfl
@[simp] theorem halt_conState (k : ReportKind) : (halt k s).conState = s.conState := rfl
@[simp] theorem halt_trace (k : ReportKind) : (halt k s).trace = s.trace ++ [.halt k] := rfl
@[simp] theorem halt_hasKeyReply (k : ReportKind) : (halt k s).hasKeyReply = s.hasKeyReply := rfl
@[simp] theorem halt_agents (k : ReportKind) : (halt k s).agents = s.agents := rfl

/-! ### haltReport -/

@[simp] theorem haltReport_cfg (k : ReportKind) (i : Info) : (haltReport k i s).cfg = s.cfg := rfl
@[simp] theorem haltReport_mode (k : ReportKind) (i : Info) : (haltReport k i s).mode = .halted := rfl
@[simp] theorem haltReport_armed (k : ReportKind) (i : Info) : (haltReport k i s).armed = s.armed := rfl
@[simp] theorem haltReport_curVector (k : ReportKind) (i : Info) : (haltReport k i s).curVector = s.curVector := rfl
@[simp] theorem haltReport_curErr (k : ReportKind) (i : Info) : (haltReport k i s).curErr = s.curErr := rfl
@[simp] theorem haltReport_haltReason (k : ReportKind) (i : Info) : (haltReport k i s).haltReason = some (s.curVector, i) := rfl
@[simp] theorem haltReport_faults (k : ReportKind) (i : Info) : (haltReport k i s).faults = s.faults := rfl
@[simp] theorem haltReport_kmod (k : ReportKind) (i : Info) : (haltReport k i s).kmod = s.kmod := rfl
@[simp] theorem haltReport_kb (k : ReportKind) (i : Info) : (haltReport k i s).kb = s.kb := rfl
@[simp] theorem haltReport_mouse (k : ReportKind) (i : Info) : (haltReport k i s).mouse = s.mouse := rfl
@[simp] theorem haltReport_cursor (k : ReportKind) (i : Info) : (haltReport k i s).cursor = s.cursor := rfl
@[simp] theorem haltReport_conState (k : ReportKind) (i : Info) : (haltReport k i s).conState = s.conState := rfl
@[simp] theorem haltReport_trace (k : ReportKind) (i : Info) : (haltReport k i s).trace = s.trace ++ [.report k s.curVector i] ++ [.halt k] := rfl
@[simp] theorem haltReport_hasKeyReply (k : ReportKind) (i : Info) : (haltReport k i s).hasKeyReply = s.hasKeyReply := rfl
@[simp] theorem haltReport_agents (k : ReportKind) (i : Info) : (haltReport k i s).agents = s.agents := rfl

/-! ### takeTerminal -/

@[simp] theorem takeTerminal_cfg (v : Byte) (err : Option Word32) (k : ReportKind) (i : Info) : (takeTerminal v err k i s).cfg = s.cfg := rfl
@[simp] theorem takeTerminal_mode (v : Byte) (err : Option Word32) (k : ReportKind) (i : Info) : (takeTerminal v err k i s).mode = .halted := rfl
@[simp] theorem takeTerminal_armed (v : Byte) (err : Option Word32) (k : ReportKind) (i : Info) : (takeTerminal v err k i s).armed = s.armed := rfl
@[simp] theorem takeTerminal_curVector (v : Byte) (err : Option Word32) (k : ReportKind) (i : Info) : (takeTerminal v err k i s).curVector = v := rfl
@[simp] theorem takeTerminal_curErr (v : Byte) (err : Option Word32) (k : ReportKind) (i : Info) : (takeTerminal v err k i s).curErr = err := rfl
@[simp] theorem takeTerminal_haltReason (v : Byte) (err : Option Word32) (k : ReportKind) (i : Info) : (takeTerminal v err k i s).haltReason = some (v, i) := rfl
@[simp] theorem takeTerminal_faults (v : Byte) (err : Option Word32) (k : ReportKind) (i : Info) : (takeTerminal v err k i s).faults = s.faults := rfl
@[simp] theorem takeTerminal_kmod (v : Byte) (err : Option Word32) (k : ReportKind) (i : Info) : (takeTerminal v err k i s).kmod = s.kmod := rfl
@[simp] theorem takeTerminal_kb (v : Byte) (err : Option Word32) (k : ReportKind) (i : Info) : (takeTerminal v err k i s).kb = s.kb := rfl
@[simp] theorem takeTerminal_mouse (v : Byte) (err : Option Word32) (k : ReportKind) (i : Info) : (takeTerminal v err k i s).mouse = s.mouse := rfl
@[simp] theorem takeTerminal_cursor (v : Byte) (err : Option Word32) (k : ReportKind) (i : Info) : (takeTerminal v err k i s).cursor = s.cursor := rfl
@[simp] theorem takeTerminal_conState (v : Byte) (err : Option Word32) (k : ReportKind) (i : Info) : (takeTerminal v err k i s).conState = s.conState := rfl
@[simp] theorem takeTerminal_trace (v : Byte) (err : Option Word32) (k : ReportKind) (i : Info) : (takeTerminal v err k i s).trace = s.trace ++ [.report k v i] ++ [.halt k] := rfl
@[simp] theorem takeTerminal_hasKeyReply (v : Byte) (err : Option Word32) (k : ReportKind) (i : Info) : (takeTerminal v err k i s).hasKeyReply = s.hasKeyReply := rfl
@[simp] theorem takeTerminal_agents (v : Byte) (err : Option Word32) (k : ReportKind) (i : Info) : (takeTerminal v err k i s).agents = s.agents := rfl

/-! ### sendEoi -/

@[simp] theorem sendEoi_cfg (irq : Nat) : (sendEoi irq s).cfg = s.cfg := by
  unfold sendEoi; split <;> rfl
@[simp] theorem sendEoi_mode (irq : Nat) : (sendEoi irq s).mode = s.mode := by
  unfold sendEoi; split <;> rfl
@[simp] theorem sendEoi_armed (irq : Nat) : (sendEoi irq s).armed = s.armed := by
  unfold sendEoi; split <;> rfl
@[simp] theorem sendEoi_curVector (irq : Nat) : (sendEoi irq s).curVector = s.curVector := by
  unfold sendEoi; split <;> rfl
@[simp] theorem sendEoi_curErr (irq : Nat) : (sendEoi irq s).curErr = s.curErr := by
  unfold sendEoi; split <;> rfl
@[simp] theorem sendEoi_haltReason (irq : Nat) : (sendEoi irq s).haltReason = s.haltReason := by
  unfold sendEoi; split <;> rfl
@[simp] theorem sendEoi_faults (irq : Nat) : (sendEoi irq s).faults = s.faults := by
  unfold sendEoi; split <;> rfl
@[simp] theorem sendEoi_kmod (irq : Nat) : (sendEoi irq s).kmod = s.kmod := by
  unfold sendEoi; split <;> rfl
@[simp] theorem sendEoi_kb (irq : Nat) : (sendEoi irq s).kb = s.kb := by
  unfold sendEoi; split <;> rfl
@[simp] theorem sendEoi_mouse (irq : Nat) : (sendEoi irq s).mouse = s.mouse := by
  unfold sendEoi; split <;> rfl
@[simp] theorem sendEoi_cursor (irq : Nat) : (sendEoi irq s).cursor = s.cursor := by
  unfold sendEoi; split <;> rfl
@[simp] theorem sendEoi_conState (irq : Nat) : (sendEoi irq s).conState = s.conState := by
  unfold sendEoi; split <;> rfl
@[simp] theorem sendEoi_trace (irq : Nat) : (sendEoi irq s).trace = s.trace ++ eoiEvents s.cfg irq := by
  unfold sendEoi eoiEvents; split <;> simp
@[simp] theorem sendEoi_hasKeyReply (irq : Nat) : (sendEoi irq s).hasKeyReply = s.hasKeyReply := by
  unfold sendEoi; split <;> rfl
@[simp] theorem sendEoi_agents (irq : Nat) : (sendEoi irq s).agents = s.agents := by
  unfold sendEoi; split <;> rfl

/-! ### eoiReturn -/

@[simp] theorem eoiReturn_cfg (irq : Nat) : (eoiReturn irq s).cfg = s.cfg := by
  simp [eoiReturn]
@[simp] theorem eoiReturn_mode (irq : Nat) : (eoiReturn irq s).mode = .idle := rfl
@[simp] theorem eoiReturn_armed (irq : Nat) : (eoiReturn irq s).armed = s.armed := by
  simp [eoiReturn]
@[simp] theorem eoiReturn_curVector (irq : Nat) : (eoiReturn irq s).curVector = s.curVector := by
  simp [eoiReturn]
@[simp] theorem eoiReturn_curErr (irq : Nat) : (eoiReturn irq s).curErr = s.curErr := by
  simp [eoiReturn]
@[simp] theorem eoiReturn_haltReason (irq : Nat) : (eoiReturn irq s).haltReason = s.haltReason := by
  simp [eoiReturn]
@[simp] theorem eoiReturn_faults (irq : Nat) : (eoiReturn irq s).faults = s.faults := by
  simp [eoiReturn]
@[simp] theorem eoiReturn_kmod (irq : Nat) : (eoiReturn irq s).kmod = s.kmod := by
  simp [eoiReturn]
@[simp] theorem eoiReturn_kb (irq : Nat) : (eoiReturn irq s).kb = s.kb := by
  simp [eoiReturn]
@[simp] theorem eoiReturn_mouse (irq : Nat) : (eoiReturn irq s).mouse = s.mouse := by
  simp [eoiReturn]
@[simp] theorem eoiReturn_cursor (irq : Nat) : (eoiReturn irq s).cursor = s.cursor := by
  simp [eoiReturn]
@[simp] theorem eoiReturn_conState (irq : Nat) : (eoiReturn irq s).conState = s.conState.wake := by
  simp [eoiReturn]
@[simp] theorem eoiReturn_trace (irq : Nat) : (eoiReturn irq s).trace = s.trace ++ eoiEvents s.cfg irq := by
  simp [eoiReturn]
@[simp] theorem eoiReturn_hasKeyReply (irq : Nat) : (eoiReturn irq s).hasKeyReply = s.hasKeyReply := by
  simp [eoiReturn]
@[simp] theorem eoiReturn_agents (irq : Nat) : (eoiReturn irq s).agents = s.agents := by
  simp [eoiReturn]

/-! ### hltStep -/

@[simp] theorem hltStep_cfg : (hltStep s).cfg = s.cfg := rfl
@[simp] theorem hltStep_mode : (hltStep s).mode = s.mode := rfl
@[simp] theorem hltStep_armed : (hltStep s).armed = s.armed := rfl
@[simp] theorem hltStep_curVector : (hltStep s).curVector = s.curVector := rfl
@[simp] theorem hltStep_curErr : (hltStep s).curErr = s.curErr := rfl
@[simp] theorem hltStep_haltReason : (hltStep s).haltReason = s.haltReason := rfl
@[simp] theorem hltStep_faults : (hltStep s).faults = s.faults := rfl
@[simp] theorem hltStep_kmod : (hltStep s).kmod = s.kmod := rfl
@[simp] theorem hltStep_kb : (hltStep s).kb = s.kb := rfl
@[simp] theorem hltStep_mouse : (hltStep s).mouse = s.mouse := rfl
@[simp] theorem hltStep_cursor : (hltStep s).cursor = s.cursor := rfl
@[simp] theorem hltStep_conState : (hltStep s).conState = .asleep := rfl
@[simp] theorem hltStep_trace : (hltStep s).trace = s.trace := rfl
@[simp] theorem hltStep_hasKeyReply : (hltStep s).hasKeyReply = s.hasKeyReply := rfl
@[simp] theorem hltStep_agents : (hltStep s).agents = s.agents := rfl

/-! ### offerFirst -/

@[simp] theorem offerFirst_cfg (o : Offer) : (offerFirst o s).cfg = s.cfg := rfl
@[simp] theorem offerFirst_mode (o : Offer) : (offerFirst o s).mode = s.mode := rfl
@[simp] theorem offerFirst_armed (o : Offer) : (offerFirst o s).armed = s.armed := rfl
@[simp] theorem offerFirst_curVector (o : Offer) : (offerFirst o s).curVector = s.curVector := rfl
@[simp] theorem offerFirst_curErr (o : Offer) : (offerFirst o s).curErr = s.curErr := rfl
@[simp] theorem offerFirst_haltReason (o : Offer) : (offerFirst o s).haltReason = s.haltReason := rfl
@[simp] theorem offerFirst_faults (o : Offer) : (offerFirst o s).faults = s.faults := rfl
@[simp] theorem offerFirst_kmod (o : Offer) : (offerFirst o s).kmod = s.kmod := rfl
@[simp] theorem offerFirst_kb (o : Offer) : (offerFirst o s).kb = s.kb := rfl
@[simp] theorem offerFirst_mouse (o : Offer) : (offerFirst o s).mouse = s.mouse := rfl
@[simp] theorem offerFirst_cursor (o : Offer) : (offerFirst o s).cursor = s.cursor := rfl
@[simp] theorem offerFirst_conState (o : Offer) : (offerFirst o s).conState = s.conState := rfl
@[simp] theorem offerFirst_trace (o : Offer) : (offerFirst o s).trace = s.trace := rfl
@[simp] theorem offerFirst_hasKeyReply (o : Offer) : (offerFirst o s).hasKeyReply = s.hasKeyReply := rfl
@[simp] theorem offerFirst_agents (o : Offer) : (offerFirst o s).agents = { s.agents with inputs := o :: s.agents.inputs } := rfl

/-! ### restoreCell -/

@[simp] theorem restoreCell_cfg : (restoreCell s).cfg = s.cfg := by
  unfold restoreCell; split <;> rfl
@[simp] theorem restoreCell_mode : (restoreCell s).mode = s.mode := by
  unfold restoreCell; split <;> rfl
@[simp] theorem restoreCell_armed : (restoreCell s).armed = s.armed := by
  unfold restoreCell; split <;> rfl
@[simp] theorem restoreCell_curVector : (restoreCell s).curVector = s.curVector := by
  unfold restoreCell; split <;> rfl
@[simp] theorem restoreCell_curErr : (restoreCell s).curErr = s.curErr := by
  unfold restoreCell; split <;> rfl
@[simp] theorem restoreCell_haltReason : (restoreCell s).haltReason = s.haltReason := by
  unfold restoreCell; split <;> rfl
@[simp] theorem restoreCell_faults : (restoreCell s).faults = s.faults := by
  unfold restoreCell; split <;> rfl
@[simp] theorem restoreCell_kmod : (restoreCell s).kmod = s.kmod := by
  unfold restoreCell; split <;> rfl
@[simp] theorem restoreCell_kb : (restoreCell s).kb = s.kb := by
  unfold restoreCell; split <;> rfl
@[simp] theorem restoreCell_mouse : (restoreCell s).mouse = s.mouse := by
  unfold restoreCell; split <;> rfl
@[simp] theorem restoreCell_cursor : (restoreCell s).cursor = s.cursor := by
  unfold restoreCell; split <;> rfl
@[simp] theorem restoreCell_conState : (restoreCell s).conState = s.conState := by
  unfold restoreCell; split <;> rfl
@[simp] theorem restoreCell_trace : (restoreCell s).trace = s.trace ++ restoreEvents s.cursor := by
  unfold restoreCell restoreEvents; split <;> simp
@[simp] theorem restoreCell_hasKeyReply : (restoreCell s).hasKeyReply = s.hasKeyReply := by
  unfold restoreCell; split <;> rfl
@[simp] theorem restoreCell_agents : (restoreCell s).agents = s.agents := by
  unfold restoreCell; split <;> rfl

/-! ### saveCell -/

@[simp] theorem saveCell_cfg : (saveCell s).cfg = s.cfg := rfl
@[simp] theorem saveCell_mode : (saveCell s).mode = s.mode := rfl
@[simp] theorem saveCell_armed : (saveCell s).armed = s.armed := rfl
@[simp] theorem saveCell_curVector : (saveCell s).curVector = s.curVector := rfl
@[simp] theorem saveCell_curErr : (saveCell s).curErr = s.curErr := rfl
@[simp] theorem saveCell_haltReason : (saveCell s).haltReason = s.haltReason := rfl
@[simp] theorem saveCell_faults : (saveCell s).faults = s.faults := rfl
@[simp] theorem saveCell_kmod : (saveCell s).kmod = s.kmod := rfl
@[simp] theorem saveCell_kb : (saveCell s).kb = s.kb := rfl
@[simp] theorem saveCell_mouse : (saveCell s).mouse = s.mouse := rfl
@[simp] theorem saveCell_cursor : (saveCell s).cursor = savedCursor s.cursor (dispCell s) := rfl
@[simp] theorem saveCell_conState : (saveCell s).conState = s.conState := rfl
@[simp] theorem saveCell_trace : (saveCell s).trace = s.trace ++ [.dread s.cursor.x s.cursor.y] := rfl
@[simp] theorem saveCell_hasKeyReply : (saveCell s).hasKeyReply = s.hasKeyReply := rfl
@[simp] theorem saveCell_agents : (saveCell s).agents = (dispAnswer s.agents).2 := rfl

/-! ### drawCursor -/

@[simp] theorem drawCursor_cfg : (drawCursor s).cfg = s.cfg := rfl
@[simp] theorem drawCursor_mode : (drawCursor s).mode = s.mode := rfl
@[simp] theorem drawCursor_armed : (drawCursor s).armed = s.armed := rfl
@[simp] theorem drawCursor_curVector : (drawCursor s).curVector = s.curVector := rfl
@[simp] theorem drawCursor_curErr : (drawCursor s).curErr = s.curErr := rfl
@[simp] theorem drawCursor_haltReason : (drawCursor s).haltReason = s.haltReason := rfl
@[simp] theorem drawCursor_faults : (drawCursor s).faults = s.faults := rfl
@[simp] theorem drawCursor_kmod : (drawCursor s).kmod = s.kmod := rfl
@[simp] theorem drawCursor_kb : (drawCursor s).kb = s.kb := rfl
@[simp] theorem drawCursor_mouse : (drawCursor s).mouse = s.mouse := rfl
@[simp] theorem drawCursor_cursor : (drawCursor s).cursor = s.cursor := rfl
@[simp] theorem drawCursor_conState : (drawCursor s).conState = s.conState := rfl
@[simp] theorem drawCursor_trace : (drawCursor s).trace = s.trace ++ [drawEvent s.cursor] := rfl
@[simp] theorem drawCursor_hasKeyReply : (drawCursor s).hasKeyReply = s.hasKeyReply := rfl
@[simp] theorem drawCursor_agents : (drawCursor s).agents = s.agents := rfl

end Sys2Proof.Machine
end

