-- ==== Sys2Proof/Laws/Ops.lean ====
section
/-! SUPPORT. One lemma for each shared operation that says everything it can do: the sequence of
outcomes, admission, Enqueue, the consumer's TEST step, Redraw, `KbdStep` and `MouseStep`. -/

namespace Sys2Proof.Machine

/-! ### Outcomes in sequence -/

@[simp] theorem andThen_next (s : State) (f : State → Result) : andThen (.next s) f = f s := rfl

@[simp] theorem andThen_fault (e : Fault) (f : State → Result) :
    andThen (.fault e) f = .fault e := rfl

@[simp] theorem andThen_refused (e : Refusal) (f : State → Result) :
    andThen (.refused e) f = .refused e := rfl

/-- A sequence answers a next state only through a next state of its first part. -/
theorem andThen_eq_next {r : Result} {f : State → Result} {t : State}
    (h : andThen r f = .next t) : ∃ m, r = .next m ∧ f m = .next t := by
  cases r with
  | next m => exact ⟨m, rfl, h⟩
  | fault e => cases h
  | refused e => cases h

@[simp] theorem noStep_eq (s : State) : noStep s = .next s := rfl

@[simp] theorem raiseFault_eq (f : FaultName) (s : State) :
    raiseFault f s = .next { s with faults := s.faults.add f } := rfl

/-! ### Admission and taking an exception -/

/-- What admission answers when it answers a next state: the state unchanged (of an idle router
only for an IRQ while unarmed), the fault NESTED_EXCEPTION recorded, or the route's rule run from an
idle router (rule R100). -/
theorem whenAdmitted_eq_next {v : Byte} {err cr2 : Option Word32} {run : State → Result} {s t : State}
    (h : whenAdmitted v err cr2 run s = .next t) :
    (t = s ∧ (s.mode ≠ .idle ∨ ((route s.cfg v).isIrq = true ∧ s.armed = false))) ∨
      (s.mode = .handling ∧ t = { s with faults := s.faults.add .nestedException }) ∨
      (s.mode = .idle ∧ route s.cfg v ≠ .absent ∧ badSideValues s.cfg v err cr2 = false ∧
        ((route s.cfg v).isIrq = true → s.armed = true) ∧ run s = .next t) := by
  unfold whenAdmitted at h
  split at h
  · rename_i hm; cases h; exact .inl ⟨rfl, .inl (by rw [hm]; decide)⟩
  split at h
  · cases h
  split at h
  · cases h
  split at h
  · rename_i ha; cases h; exact .inl ⟨rfl, .inr (by simpa using ha)⟩
  split at h
  · rename_i hm
    split at h
    · cases h; exact .inl ⟨rfl, .inl (by rw [hm]; decide)⟩
    · cases h
      exact .inr (.inl ⟨hm, rfl⟩)
  · rename_i h1 h2 h3 h4 h5
    refine .inr (.inr ⟨?_, h2, by simpa using h3, ?_, h⟩)
    · cases hm : s.mode <;> simp_all
    · intro hi
      simpa [hi] using h4

/-- An admitted request runs the route's rule (rule R100, the last line). -/
theorem whenAdmitted_run {v : Byte} {err cr2 : Option Word32} {run : State → Result} {s : State}
    (hm : s.mode = .idle) (hr : route s.cfg v ≠ .absent)
    (hb : badSideValues s.cfg v err cr2 = false)
    (ha : (route s.cfg v).isIrq = true → s.armed = true) : whenAdmitted v err cr2 run s = run s := by
  unfold whenAdmitted
  have h4 : ((route s.cfg v).isIrq && !s.armed) = false := by
    cases hi : (route s.cfg v).isIrq
    · rfl
    · simp [ha hi]
  simp [hm, hr, hb, h4]

@[simp] theorem whenAdmitted_halted {v : Byte} {err cr2 : Option Word32} {run : State → Result} {s : State}
    (hm : s.mode = .halted) : whenAdmitted v err cr2 run s = .next s := by
  simp [whenAdmitted, hm]

/-! ### The key buffer -/

/-- Everything Enqueue can do (rule R135). -/
theorem enqueue_cases (ch : Byte) (s : State) :
    (s.kb.full s.cfg.kbufN = true ∧ enqueue ch s = .next s) ∨
    (s.kb.full s.cfg.kbufN = false ∧ s.kb.head < s.cfg.kbufN ∧ enqueue ch s = .next { s with
      kb := { cells := s.kb.cells.write s.kb.head ch
              head := (s.kb.head + 1) % s.cfg.kbufN, tail := s.kb.tail } }) ∨
    (s.kb.full s.cfg.kbufN = false ∧ s.cfg.kbufN ≤ s.kb.head ∧
      enqueue ch s = .fault .keyBufferSlot) := by
  unfold enqueue
  cases hf : s.kb.full s.cfg.kbufN
  · by_cases hh : s.kb.head < s.cfg.kbufN
    · exact .inr (.inl ⟨rfl, hh, by simp [hh]⟩)
    · exact .inr (.inr ⟨rfl, by omega, by simp [hh]⟩)
  · exact .inl ⟨rfl, by simp⟩

/-- Everything the TEST step of READ_CHAR can do (rule R161). -/
theorem testStep_cases (s : State) :
    (s.kb.head = s.kb.tail ∧ testStep s = .next { s with conState := .preHlt }) ∨
    (s.kb.head ≠ s.kb.tail ∧ s.kb.tail < s.cfg.kbufN ∧
      testStep s = .next { s with
        kb := { s.kb with tail := (s.kb.tail + 1) % s.cfg.kbufN }
        conState := .ready
        trace := s.trace ++ [.read (s.kb.cells.read s.kb.tail)] }) ∨
    (s.kb.head ≠ s.kb.tail ∧ s.cfg.kbufN ≤ s.kb.tail ∧ testStep s = .fault .keyBufferSlot) := by
  unfold testStep KeyBuffer.empty
  by_cases he : s.kb.head = s.kb.tail
  · exact .inl ⟨he, by simp [he]⟩
  · by_cases ht : s.kb.tail < s.cfg.kbufN
    · exact .inr (.inl ⟨he, ht, by simp [he, ht, emit]⟩)
    · exact .inr (.inr ⟨he, by omega, by simp [he, ht]⟩)

/-! ### The steps inside a dispatch -/

/-- `KbdStep` is the pure decode function and then, for a character, Enqueue (rule R130). Every
property of `KbdStep` follows from this form. -/
theorem kbdStep_form (sc : Byte) (s : State) :
    kbdStep sc s =
      match (kbdDecode s.cfg s.kmod sc).2 with
      | none => .next { s with kmod := (kbdDecode s.cfg s.kmod sc).1 }
      | some ch => enqueue ch { s with kmod := (kbdDecode s.cfg s.kmod sc).1 } := by
  unfold kbdStep kbdDecode
  cases sc8Row s.cfg sc <;> simp only
  case keyMake =>
    unfold execKbKeyMake
    cases keyOutput s.cfg s.kmod (scIdx sc) <;> rfl
  all_goals rfl

/-- When Redraw answers a next state, the state it answers (rule R187). -/
theorem redraw_eq_next {s t : State} (h : redraw s = .next t) :
    redrawInDisplay s = true ∧ t = drawCursor (saveCell (restoreCell s)) := by
  unfold redraw at h
  split at h
  · cases h; exact ⟨by assumption, rfl⟩
  · cases h

end Sys2Proof.Machine
end

