-- ==== Sys2Proof/Laws/PerInstr.lean ====
section
/-! SUPPORT. Statements made per operation. `RowMatch`: the word the encoder gives a well-formed
operation lies in that operation's own row of the opcode table (30_encoding.md rule R78), in the
default configuration. -/

namespace Sys2Proof.Laws.RowMatch

/-- The encoded word of a well-formed operation matches the row of spec/opcode_table.json that the
operation stands for. -/
def Statement (i : Instr) : Prop :=
  i.wf Cfg.default = true →
    ∃ r ∈ tableRows Cfg.default i.format, r.id = i.row ∧ r.hits (encode Cfg.default i).bits = true

/-- An operation whose row `r` stands in its format's table and matches its word. -/
theorem of_row {i : Instr} (f : Format) (r : Row)
    (h : i.wf Cfg.default = true → r.hits (encode Cfg.default i).bits = true)
    (hf : i.format = f) (hr : r ∈ tableRows Cfg.default f) (hid : r.id = i.row) : Statement i :=
  fun hw => ⟨r, hf ▸ hr, hid, h hw⟩

theorem kbLshiftMake : Statement .kbLshiftMake :=
  of_row .sc8 ⟨.sc8 .lshiftMake, 0x2A, 0xFF⟩
    (fun _ => (by decide : Row.hits ⟨.sc8 .lshiftMake, 0x2A, 0xFF⟩ 0x2A = true))
    rfl (by decide) rfl

theorem kbRshiftMake : Statement .kbRshiftMake :=
  of_row .sc8 ⟨.sc8 .rshiftMake, 0x36, 0xFF⟩
    (fun _ => (by decide : Row.hits ⟨.sc8 .rshiftMake, 0x36, 0xFF⟩ 0x36 = true))
    rfl (by decide) rfl

theorem kbLshiftBreak : Statement .kbLshiftBreak :=
  of_row .sc8 ⟨.sc8 .lshiftBreak, 0xAA, 0xFF⟩
    (fun _ => (by decide : Row.hits ⟨.sc8 .lshiftBreak, 0xAA, 0xFF⟩ 0xAA = true))
    rfl (by decide) rfl

theorem kbRshiftBreak : Statement .kbRshiftBreak :=
  of_row .sc8 ⟨.sc8 .rshiftBreak, 0xB6, 0xFF⟩
    (fun _ => (by decide : Row.hits ⟨.sc8 .rshiftBreak, 0xB6, 0xFF⟩ 0xB6 = true))
    rfl (by decide) rfl

theorem kbCtrlMake : Statement .kbCtrlMake :=
  of_row .sc8 ⟨.sc8 .ctrlMake, 0x1D, 0xFF⟩
    (fun _ => (by decide : Row.hits ⟨.sc8 .ctrlMake, 0x1D, 0xFF⟩ 0x1D = true))
    rfl (by decide) rfl

theorem kbCtrlBreak : Statement .kbCtrlBreak :=
  of_row .sc8 ⟨.sc8 .ctrlBreak, 0x9D, 0xFF⟩
    (fun _ => (by decide : Row.hits ⟨.sc8 .ctrlBreak, 0x9D, 0xFF⟩ 0x9D = true))
    rfl (by decide) rfl

theorem kbAltMake : Statement .kbAltMake :=
  of_row .sc8 ⟨.sc8 .altMake, 0x38, 0xFF⟩
    (fun _ => (by decide : Row.hits ⟨.sc8 .altMake, 0x38, 0xFF⟩ 0x38 = true))
    rfl (by decide) rfl

theorem kbAltBreak : Statement .kbAltBreak :=
  of_row .sc8 ⟨.sc8 .altBreak, 0xB8, 0xFF⟩
    (fun _ => (by decide : Row.hits ⟨.sc8 .altBreak, 0xB8, 0xFF⟩ 0xB8 = true))
    rfl (by decide) rfl

theorem kbCapsMake : Statement .kbCapsMake :=
  of_row .sc8 ⟨.sc8 .capsMake, 0x3A, 0xFF⟩
    (fun _ => (by decide : Row.hits ⟨.sc8 .capsMake, 0x3A, 0xFF⟩ 0x3A = true))
    rfl (by decide) rfl

theorem kbCapsBreak : Statement .kbCapsBreak :=
  of_row .sc8 ⟨.sc8 .capsBreak, 0xBA, 0xFF⟩
    (fun _ => (by decide : Row.hits ⟨.sc8 .capsBreak, 0xBA, 0xFF⟩ 0xBA = true))
    rfl (by decide) rfl

theorem kbKeyMake (idx : KeyIdx) : Statement (.kbKeyMake idx) :=
  of_row .sc8 ⟨.sc8 .keyMake, 0x00, 0x80⟩
    ((by decide : ∀ idx : KeyIdx, Instr.wf Cfg.default (.kbKeyMake idx) = true →
      Row.hits ⟨.sc8 .keyMake, 0x00, 0x80⟩ ((makeCode idx).setWidth 10) = true) idx)
    rfl (by decide) rfl

theorem kbKeyBreak (idx : KeyIdx) : Statement (.kbKeyBreak idx) :=
  of_row .sc8 ⟨.sc8 .keyBreak, 0x80, 0x80⟩
    ((by decide : ∀ idx : KeyIdx, Instr.wf Cfg.default (.kbKeyBreak idx) = true →
      Row.hits ⟨.sc8 .keyBreak, 0x80, 0x80⟩ ((breakCode idx).setWidth 10) = true) idx)
    rfl (by decide) rfl

theorem intDe (err cr2 : Option Word32) : Statement (.intDe err cr2) :=
  of_row .vec8 ⟨.vec8 .de, 0x00, 0xFF⟩
    (fun _ => (by decide : Row.hits ⟨.vec8 .de, 0x00, 0xFF⟩ 0x00 = true))
    rfl (by decide) rfl

theorem intDb (err cr2 : Option Word32) : Statement (.intDb err cr2) :=
  of_row .vec8 ⟨.vec8 .db, 0x01, 0xFF⟩
    (fun _ => (by decide : Row.hits ⟨.vec8 .db, 0x01, 0xFF⟩ 0x01 = true))
    rfl (by decide) rfl

theorem intBp (err cr2 : Option Word32) : Statement (.intBp err cr2) :=
  of_row .vec8 ⟨.vec8 .bp, 0x03, 0xFF⟩
    (fun _ => (by decide : Row.hits ⟨.vec8 .bp, 0x03, 0xFF⟩ 0x03 = true))
    rfl (by decide) rfl

theorem intDf (err cr2 : Option Word32) : Statement (.intDf err cr2) :=
  of_row .vec8 ⟨.vec8 .df, 0x08, 0xFF⟩
    (fun _ => (by decide : Row.hits ⟨.vec8 .df, 0x08, 0xFF⟩ 0x08 = true))
    rfl (by decide) rfl

theorem intGp (err cr2 : Option Word32) : Statement (.intGp err cr2) :=
  of_row .vec8 ⟨.vec8 .gp, 0x0D, 0xFF⟩
    (fun _ => (by decide : Row.hits ⟨.vec8 .gp, 0x0D, 0xFF⟩ 0x0D = true))
    rfl (by decide) rfl

theorem intPf (err cr2 : Option Word32) : Statement (.intPf err cr2) :=
  of_row .vec8 ⟨.vec8 .pf, 0x0E, 0xFF⟩
    (fun _ => (by decide : Row.hits ⟨.vec8 .pf, 0x0E, 0xFF⟩ 0x0E = true))
    rfl (by decide) rfl

theorem intIrqTimer (err cr2 : Option Word32) : Statement (.intIrqTimer err cr2) :=
  of_row .vec8 ⟨.vec8 .timer, 0x20, 0xFF⟩
    (fun _ => (by decide : Row.hits ⟨.vec8 .timer, 0x20, 0xFF⟩ 0x20 = true))
    rfl (by decide) rfl

theorem intIrqKbd (err cr2 : Option Word32) : Statement (.intIrqKbd err cr2) :=
  of_row .vec8 ⟨.vec8 .kbd, 0x21, 0xFF⟩
    (fun _ => (by decide : Row.hits ⟨.vec8 .kbd, 0x21, 0xFF⟩ 0x21 = true))
    rfl (by decide) rfl

theorem intIrqMouse (err cr2 : Option Word32) : Statement (.intIrqMouse err cr2) :=
  of_row .vec8 ⟨.vec8 .mouse, 0x2C, 0xFF⟩
    (fun _ => (by decide : Row.hits ⟨.vec8 .mouse, 0x2C, 0xFF⟩ 0x2C = true))
    rfl (by decide) rfl

theorem intIrqUnhandled (v : Byte) (err cr2 : Option Word32) : Statement (.intIrqUnhandled v err cr2) :=
  of_row .vec8 ⟨.vec8 .irqUnhandled, 0x20, 0xF0⟩
    ((by decide : ∀ v : Byte, Instr.wf Cfg.default (.intIrqUnhandled v none none) = true →
      Row.hits ⟨.vec8 .irqUnhandled, 0x20, 0xF0⟩ (v.setWidth 10) = true) v)
    rfl (by decide) rfl

theorem intExcUnhandled (v : Byte) (err cr2 : Option Word32) : Statement (.intExcUnhandled v err cr2) :=
  of_row .vec8 ⟨.vec8 .excUnhandled, 0x00, 0xE0⟩
    ((by decide : ∀ v : Byte, Instr.wf Cfg.default (.intExcUnhandled v none none) = true →
      Row.hits ⟨.vec8 .excUnhandled, 0x00, 0xE0⟩ (v.setWidth 10) = true) v)
    rfl (by decide) rfl

theorem intAbsent (v : Byte) (err cr2 : Option Word32) : Statement (.intAbsent v err cr2) :=
  of_row .vec8 ⟨.vec8 .absent, 0x00, 0x00⟩
    ((by decide : ∀ v : Byte, Instr.wf Cfg.default (.intAbsent v none none) = true →
      Row.hits ⟨.vec8 .absent, 0x00, 0x00⟩ (v.setWidth 10) = true) v)
    rfl (by decide) rfl

theorem msSyncAccept (b : Byte) : Statement (.msSyncAccept b) :=
  of_row .mw10 ⟨.mw10 .syncAccept, 0x008, 0x308⟩
    ((by decide : ∀ b : Byte, Instr.wf Cfg.default (.msSyncAccept b) = true →
      Row.hits ⟨.mw10 .syncAccept, 0x008, 0x308⟩ (mouseWord 0 b) = true) b)
    rfl (by decide) rfl

theorem msSyncDiscard (b : Byte) : Statement (.msSyncDiscard b) :=
  of_row .mw10 ⟨.mw10 .syncDiscard, 0x000, 0x308⟩
    ((by decide : ∀ b : Byte, Instr.wf Cfg.default (.msSyncDiscard b) = true →
      Row.hits ⟨.mw10 .syncDiscard, 0x000, 0x308⟩ (mouseWord 0 b) = true) b)
    rfl (by decide) rfl

theorem msByte1 (b : Byte) : Statement (.msByte1 b) :=
  of_row .mw10 ⟨.mw10 .byte1, 0x100, 0x300⟩
    ((by decide : ∀ b : Byte, Instr.wf Cfg.default (.msByte1 b) = true →
      Row.hits ⟨.mw10 .byte1, 0x100, 0x300⟩ (mouseWord 1 b) = true) b)
    rfl (by decide) rfl

theorem msByte2Complete (b : Byte) : Statement (.msByte2Complete b) :=
  of_row .mw10 ⟨.mw10 .byte2Complete, 0x200, 0x300⟩
    ((by decide : ∀ b : Byte, Instr.wf Cfg.default (.msByte2Complete b) = true →
      Row.hits ⟨.mw10 .byte2Complete, 0x200, 0x300⟩ (mouseWord 2 b) = true) b)
    rfl (by decide) rfl

theorem msPhase3 (b : Byte) : Statement (.msPhase3 b) :=
  of_row .mw10 ⟨.mw10 .phase3, 0x300, 0x300⟩
    ((by decide : ∀ b : Byte, Instr.wf Cfg.default (.msPhase3 b) = true →
      Row.hits ⟨.mw10 .phase3, 0x300, 0x300⟩ (mouseWord 3 b) = true) b)
    rfl (by decide) rfl

theorem conHasKey : Statement .conHasKey :=
  of_row .con2 ⟨.con2 0, 0, 3⟩
    (fun _ => (by decide : Row.hits ⟨.con2 0, 0, 3⟩ 0 = true))
    rfl (by decide) rfl

theorem conReadChar : Statement .conReadChar :=
  of_row .con2 ⟨.con2 1, 1, 3⟩
    (fun _ => (by decide : Row.hits ⟨.con2 1, 1, 3⟩ 1 = true))
    rfl (by decide) rfl

theorem conArm : Statement .conArm :=
  of_row .con2 ⟨.con2 2, 2, 3⟩
    (fun _ => (by decide : Row.hits ⟨.con2 2, 2, 3⟩ 2 = true))
    rfl (by decide) rfl

theorem conReserved : Statement .conReserved :=
  of_row .con2 ⟨.con2 3, 3, 3⟩
    (fun _ => (by decide : Row.hits ⟨.con2 3, 3, 3⟩ 3 = true))
    rfl (by decide) rfl

end Sys2Proof.Laws.RowMatch
end

