-- ==== Sys2Proof/Laws/Step.lean ====
section
/-! SUPPORT. What each family of operations can do when it answers a next state, said once: Enqueue,
`KbdStep`, `MouseStep`, a dispatch, a consumer command. -/

namespace Sys2Proof.Machine

/-! ### `exec` on each operation -/

@[simp] theorem exec_kbLshiftMake (s : State) :
    exec .kbLshiftMake s = execKbLshiftMake s := rfl
@[simp] theorem exec_kbRshiftMake (s : State) :
    exec .kbRshiftMake s = execKbRshiftMake s := rfl
@[simp] theorem exec_kbLshiftBreak (s : State) :
    exec .kbLshiftBreak s = execKbLshiftBreak s := rfl
@[simp] theorem exec_kbRshiftBreak (s : State) :
    exec .kbRshiftBreak s = execKbRshiftBreak s := rfl
@[simp] theorem exec_kbCtrlMake (s : State) :
    exec .kbCtrlMake s = execKbCtrlMake s := rfl
@[simp] theorem exec_kbCtrlBreak (s : State) :
    exec .kbCtrlBreak s = execKbCtrlBreak s := rfl
@[simp] theorem exec_kbAltMake (s : State) :
    exec .kbAltMake s = execKbAltMake s := rfl
@[simp] theorem exec_kbAltBreak (s : State) :
    exec .kbAltBreak s = execKbAltBreak s := rfl
@[simp] theorem exec_kbCapsMake (s : State) :
    exec .kbCapsMake s = execKbCapsMake s := rfl
@[simp] theorem exec_kbCapsBreak (s : State) :
    exec .kbCapsBreak s = execKbCapsBreak s := rfl
@[simp] theorem exec_kbKeyMake (idx : KeyIdx) (s : State) :
    exec (.kbKeyMake idx) s = execKbKeyMake idx s := rfl
@[simp] theorem exec_kbKeyBreak (idx : KeyIdx) (s : State) :
    exec (.kbKeyBreak idx) s = execKbKeyBreak idx s := rfl
@[simp] theorem exec_intDe (err : Option Word32) (cr2 : Option Word32) (s : State) :
    exec (.intDe err cr2) s = execIntDe err cr2 s := rfl
@[simp] theorem exec_intDb (err : Option Word32) (cr2 : Option Word32) (s : State) :
    exec (.intDb err cr2) s = execIntDb err cr2 s := rfl
@[simp] theorem exec_intBp (err : Option Word32) (cr2 : Option Word32) (s : State) :
    exec (.intBp err cr2) s = execIntBp err cr2 s := rfl
@[simp] theorem exec_intDf (err : Option Word32) (cr2 : Option Word32) (s : State) :
    exec (.intDf err cr2) s = execIntDf err cr2 s := rfl
@[simp] theorem exec_intGp (err : Option Word32) (cr2 : Option Word32) (s : State) :
    exec (.intGp err cr2) s = execIntGp err cr2 s := rfl
@[simp] theorem exec_intPf (err : Option Word32) (cr2 : Option Word32) (s : State) :
    exec (.intPf err cr2) s = execIntPf err cr2 s := rfl
@[simp] theorem exec_intIrqTimer (err : Option Word32) (cr2 : Option Word32) (s : State) :
    exec (.intIrqTimer err cr2) s = execIntIrqTimer err cr2 s := rfl
@[simp] theorem exec_intIrqKbd (err : Option Word32) (cr2 : Option Word32) (s : State) :
    exec (.intIrqKbd err cr2) s = execIntIrqKbd err cr2 s := rfl
@[simp] theorem exec_intIrqMouse (err : Option Word32) (cr2 : Option Word32) (s : State) :
    exec (.intIrqMouse err cr2) s = execIntIrqMouse err cr2 s := rfl
@[simp] theorem exec_intIrqUnhandled (v : Byte) (err : Option Word32) (cr2 : Option Word32) (s : State) :
    exec (.intIrqUnhandled v err cr2) s = execIntIrqUnhandled v err cr2 s := rfl
@[simp] theorem exec_intExcUnhandled (v : Byte) (err : Option Word32) (cr2 : Option Word32) (s : State) :
    exec (.intExcUnhandled v err cr2) s = execIntExcUnhandled v err cr2 s := rfl
@[simp] theorem exec_intAbsent (v : Byte) (err : Option Word32) (cr2 : Option Word32) (s : State) :
    exec (.intAbsent v err cr2) s = execIntAbsent v err cr2 s := rfl
@[simp] theorem exec_msSyncAccept (b : Byte) (s : State) :
    exec (.msSyncAccept b) s = execMsSyncAccept b s := rfl
@[simp] theorem exec_msSyncDiscard (b : Byte) (s : State) :
    exec (.msSyncDiscard b) s = execMsSyncDiscard b s := rfl
@[simp] theorem exec_msByte1 (b : Byte) (s : State) :
    exec (.msByte1 b) s = execMsByte1 b s := rfl
@[simp] theorem exec_msByte2Complete (b : Byte) (s : State) :
    exec (.msByte2Complete b) s = execMsByte2Complete b s := rfl
@[simp] theorem exec_msPhase3 (b : Byte) (s : State) :
    exec (.msPhase3 b) s = execMsPhase3 b s := rfl
@[simp] theorem exec_conHasKey (s : State) :
    exec .conHasKey s = execConHasKey s := rfl
@[simp] theorem exec_conReadChar (s : State) :
    exec .conReadChar s = execConReadChar s := rfl
@[simp] theorem exec_conArm (s : State) :
    exec .conArm s = execConArm s := rfl
@[simp] theorem exec_conReserved (s : State) :
    exec .conReserved s = execConReserved s := rfl

/-! ### The side-value check -/

/-- Rule R72's shape of side values as a proposition. -/
theorem badSideValues_eq_false {c : Cfg} {v : Byte} {err cr2 : Option Word32} :
    badSideValues c v err cr2 = false ↔
      (err.isSome = true ↔ v ∈ c.errcodeVectors) ∧ (cr2.isSome = true ↔ v = 14) := by
  unfold badSideValues
  cases err <;> cases cr2 <;> simp

/-- A vector other than 14 without side values fits where it is no error-code vector. -/
theorem badSideValues_none {c : Cfg} {v : Byte} (he : v ∉ c.errcodeVectors) (hv : v ≠ 14) :
    badSideValues c v none none = false := by
  rw [badSideValues_eq_false]
  exact ⟨by simp [he], by simpa using hv⟩

/-- An IRQ request without side values fits (rule R72), for every vector above the exceptions'. -/
theorem badSideValues_irq {c : Cfg} {v : Byte} (he : v ∉ c.errcodeVectors) (hv : 31 < v.toNat) :
    badSideValues c v none none = false :=
  badSideValues_none he (by rintro rfl; exact absurd hv (by decide))

/-- An IRQ request that fits is held while the block is unarmed (rule R100). -/
theorem whenAdmitted_unarmed {v : Byte} {err cr2 : Option Word32} {run : State → Result} {s : State}
    (hm : s.mode = .idle) (hr : (route s.cfg v).isIrq = true)
    (hb : badSideValues s.cfg v err cr2 = false) (ha : s.armed = false) :
    whenAdmitted v err cr2 run s = .next s := by
  have hn : route s.cfg v ≠ .absent := by intro h; rw [h] at hr; cases hr
  unfold whenAdmitted
  rw [if_neg (by rw [hm]; decide), if_neg hn, if_neg (by rw [hb]; decide),
    if_pos (by rw [hr, ha]; rfl)]
  rfl

/-- An IRQ request that fits runs its route's rule when the block is armed (rule R100). -/
theorem whenAdmitted_irq {v : Byte} {err cr2 : Option Word32} {run : State → Result} {s : State}
    (hm : s.mode = .idle) (hr : (route s.cfg v).isIrq = true)
    (hb : badSideValues s.cfg v err cr2 = false) (ha : s.armed = true) :
    whenAdmitted v err cr2 run s = run s :=
  whenAdmitted_run hm (by intro h; rw [h] at hr; cases hr) hb (fun _ => ha)

/-- The wait of a sleeping consumer ends, and no other `con_state` changes (rule R102). -/
theorem conState_wake (k : ConState) : k.wake = if k = .asleep then .retry else k := by
  cases k <;> rfl

/-! ### Requests, admitted -/

/-- A vector whose number is one above another's. -/
theorem eq_add_one {v b : Byte} (h : v.toNat = b.toNat + 1) : v = b + 1 := by
  have := v.isLt
  apply BitVec.eq_of_toNat_eq
  rw [BitVec.toNat_add]
  show _ = (b.toNat + 1) % 256
  omega

/-- A vector whose number is twelve above another's. -/
theorem eq_add_twelve {v b : Byte} (h : v.toNat = b.toNat + 12) : v = b + 12 := by
  have := v.isLt
  apply BitVec.eq_of_toNat_eq
  rw [BitVec.toNat_add]
  show _ = (b.toNat + 12) % 256
  omega

/-- What runs when a request is admitted, by its route (rules R104 to R116). -/
def routeRun (v : Byte) (err cr2 : Option Word32) (r : Route) (s : State) : Result :=
  match r with
  | .de => .next (takeTerminal 0 none .divideByZero ⟨none, none⟩ s)
  | .db => .next (takeTerminal 1 none .debug ⟨none, none⟩ s)
  | .bp => .next (takeTerminal 3 none .breakpoint ⟨none, none⟩ s)
  | .df => .next (takeTerminal 8 err .doubleFault ⟨err, none⟩ s)
  | .gp => .next (takeTerminal 13 err .generalProtection ⟨err, none⟩ s)
  | .pf => .next (takeTerminal 14 err .pageFault ⟨err, cr2⟩ s)
  | .timer => .next (eoiReturn 0 (emit .tick (enter s.cfg.irqBase none s)))
  | .kbd =>
    andThen (kbdStep (ps2Byte s) (portIn ps2Port (enter (s.cfg.irqBase + 1) none s)))
      (fun t => .next (eoiReturn 1 t))
  | .mouse =>
    if s.mouse.phase = 3 then execMsPhase3 (ps2Byte s) s
    else andThen (mouseStep (ps2Byte s) (portIn ps2Port (enter (s.cfg.irqBase + 12) none s)))
      (fun t => .next (eoiReturn 12 t))
  | .irqUnhandled =>
    .next (eoiReturn (v.toNat - s.cfg.irqBase.toNat) (emit (.log v none) (enter v none s)))
  | .excUnhandled => .next (ret (emit (.log v err) (enter v err s)))
  | .absent => .refused .absentVector

/-- Every decoded dispatch request is admitted by rule R100 on its own vector and side values, and
then runs its route. -/
theorem exec_decode_vec8 (s : State) (v : Byte) (err cr2 : Option Word32) :
    exec (decode s.cfg (.vec8 v err cr2)) s =
      whenAdmitted v err cr2 (routeRun v err cr2 (route s.cfg v)) s := by
  have hr : ∀ r, route s.cfg v = r →
      exec (r.instr v err cr2) s = whenAdmitted v err cr2 (routeRun v err cr2 r) s := by
    intro r h
    unfold route at h
    split at h
    case isTrue hv => obtain rfl : v = 0 := BitVec.eq_of_toNat_eq hv; subst h; rfl
    split at h
    case isTrue hv => obtain rfl : v = 1 := BitVec.eq_of_toNat_eq hv; subst h; rfl
    split at h
    case isTrue hv => obtain rfl : v = 3 := BitVec.eq_of_toNat_eq hv; subst h; rfl
    split at h
    case isTrue hv => obtain rfl : v = 8 := BitVec.eq_of_toNat_eq hv; subst h; rfl
    split at h
    case isTrue hv => obtain rfl : v = 13 := BitVec.eq_of_toNat_eq hv; subst h; rfl
    split at h
    case isTrue hv => obtain rfl : v = 14 := BitVec.eq_of_toNat_eq hv; subst h; rfl
    split at h
    case isTrue hv => obtain rfl := BitVec.eq_of_toNat_eq hv; subst h; rfl
    split at h
    case isTrue hv => obtain rfl := eq_add_one hv; subst h; rfl
    split at h
    case isTrue hv => obtain rfl := eq_add_twelve hv; subst h; rfl
    split at h
    case isTrue => subst h; rfl
    split at h <;> (subst h; rfl)
  exact hr _ rfl

/-- A decoded request that an idle router answers with a next state ran its route, or was held: an
IRQ while unarmed (rule R100). -/
theorem routeRun_of_next {s t : State} {v : Byte} {err cr2 : Option Word32} (hm : s.mode = .idle)
    (h : exec (decode s.cfg (.vec8 v err cr2)) s = .next t) :
    (t = s ∧ (route s.cfg v).isIrq = true ∧ s.armed = false) ∨
      routeRun v err cr2 (route s.cfg v) s = .next t := by
  rw [exec_decode_vec8] at h
  rcases whenAdmitted_eq_next h with ⟨ht, hx⟩ | ⟨hx, _⟩ | ⟨_, _, _, _, hr⟩
  · rcases hx with hx | hx
    · exact absurd hm hx
    · exact .inl ⟨ht, hx⟩
  · rw [hm] at hx; cases hx
  · exact .inr hr

/-! ### Enqueue and `KbdStep` -/

/-- The states Enqueue can answer (rule R135). -/
theorem enqueue_eq_next {ch : Byte} {s t : State} (h : enqueue ch s = .next t) :
    t = s ∨ (s.kb.head < s.cfg.kbufN ∧ (s.kb.head + 1) % s.cfg.kbufN ≠ s.kb.tail ∧
      t = { s with kb := { cells := s.kb.cells.write s.kb.head ch
                           head := (s.kb.head + 1) % s.cfg.kbufN, tail := s.kb.tail } }) := by
  rcases enqueue_cases ch s with ⟨_, he⟩ | ⟨hf, hh, he⟩ | ⟨_, _, he⟩ <;> rw [he] at h <;> cases h
  · exact .inl rfl
  · exact .inr ⟨hh, by simpa [KeyBuffer.full] using hf, rfl⟩

/-- The states `KbdStep` can answer (rule R130): the decode function's modifier state, and its
character enqueued, dropped or absent. -/
theorem kbdStep_eq_next {sc : Byte} {s t : State} (h : kbdStep sc s = .next t) :
    t = { s with kmod := (kbdDecode s.cfg s.kmod sc).1 } ∨
    ∃ ch, (kbdDecode s.cfg s.kmod sc).2 = some ch ∧ s.kb.head < s.cfg.kbufN ∧
      (s.kb.head + 1) % s.cfg.kbufN ≠ s.kb.tail ∧
      t = { s with kmod := (kbdDecode s.cfg s.kmod sc).1
                   kb := { cells := s.kb.cells.write s.kb.head ch
                           head := (s.kb.head + 1) % s.cfg.kbufN, tail := s.kb.tail } } := by
  rw [kbdStep_form] at h
  split at h
  · cases h; exact .inl rfl
  · rename_i ch hc
    rcases enqueue_eq_next h with rfl | ⟨h1, h2, rfl⟩
    · exact .inl rfl
    · exact .inr ⟨ch, hc, h1, h2, rfl⟩

/-- `KbdStep` answers a next state where `head` is a slot (rule R33). -/
theorem kbdStep_runs (sc : Byte) {s : State} (h : s.kb.head < s.cfg.kbufN) :
    ∃ t, kbdStep sc s = .next t := by
  rw [kbdStep_form]
  split
  · exact ⟨_, rfl⟩
  · rename_i ch _
    rcases enqueue_cases ch { s with kmod := (kbdDecode s.cfg s.kmod sc).1 } with
      ⟨_, he⟩ | ⟨_, _, he⟩ | ⟨_, hh, _⟩
    · exact ⟨_, he⟩
    · exact ⟨_, he⟩
    · exact absurd hh (by simpa using h)

/-! ### `Redraw` and `MouseStep` -/

@[simp] theorem restoreCell_eq (s : State) : restoreCell s = { s with
    trace := s.trace ++ (if s.cursor.savedValid then
      [.dwrite s.cursor.savedX s.cursor.savedY s.cursor.savedG s.cursor.savedC] else []) } := by
  unfold restoreCell
  cases s.cursor.savedValid <;> simp [dispWrite, emit]

/-- The whole of a completed packet (rules R183, R185 to R188). -/
theorem execMsByte2Complete_eq_next {b : Byte} {s t : State}
    (h : execMsByte2Complete b s = .next t) :
    ∃ m : Mouse, m = { s.mouse with pkt2 := b, phase := 0 } ∧
      t = { s with
        mouse := { m with buttons := packetButtons m }
        cursor := {
          x := movedX s.cfg s.cursor.x (packetDx s.cfg m)
          y := movedY s.cfg s.cursor.y (packetDy s.cfg m)
          savedValid := true
          savedX := movedX s.cfg s.cursor.x (packetDx s.cfg m)
          savedY := movedY s.cfg s.cursor.y (packetDy s.cfg m)
          savedG := (dispAnswer s.agents).1.1
          savedC := (dispAnswer s.agents).1.2 }
        agents := (dispAnswer s.agents).2
        trace := t.trace } ∧
      ∃ es, t.trace = s.trace ++ es ∧ ∀ e ∈ es, ∀ p v, e ≠ .output p v := by
  refine ⟨_, rfl, ?_⟩
  obtain ⟨_, rfl⟩ := redraw_eq_next h
  refine ⟨?_, ?_⟩
  · simp [drawCursor, saveCell, dispWrite, dispRead, completePacket, movePosition, emit, dispCell]
  · simp only [restoreCell_eq, drawCursor, saveCell, dispWrite, dispRead, completePacket,
      movePosition, emit, List.append_assoc]
    refine ⟨_, rfl, ?_⟩
    intro e he p v
    simp only [List.mem_append, List.mem_singleton] at he
    rcases he with rfl | h | rfl | rfl
    · simp
    · split at h <;> simp at h
      subst h; simp
    · simp
    · simp

/-- The operations of `MouseStep` below phase 3 (rules R180 to R183). -/
theorem mouseStep_eq_next {b : Byte} {s t : State} (hp : s.mouse.phase ≠ 3)
    (h : mouseStep b s = .next t) :
    (s.mouse.phase = 0 ∧ b.getLsbD 3 = true ∧
      t = { s with mouse := { s.mouse with pkt0 := b, phase := 1 } }) ∨
    (s.mouse.phase = 0 ∧ b.getLsbD 3 = false ∧ t = s) ∨
    (s.mouse.phase = 1 ∧ t = { s with mouse := { s.mouse with pkt1 := b, phase := 2 } }) ∨
    (s.mouse.phase = 2 ∧ execMsByte2Complete b s = .next t) := by
  have h3 : s.mouse.phase ≠ 0 → s.mouse.phase ≠ 1 → s.mouse.phase = 2 := by
    generalize s.mouse.phase = p at hp ⊢
    revert p; decide
  unfold mouseStep mw10Row at h
  by_cases h0 : s.mouse.phase = 0
  · cases hb : b.getLsbD 3 <;> simp [h0, hb, execMsSyncAccept, execMsSyncDiscard] at h <;>
      simp_all
  by_cases h1 : s.mouse.phase = 1
  · simp [h1, execMsByte1] at h
    simp_all
  · have h2 := h3 h0 h1
    simp [h2] at h
    exact .inr (.inr (.inr ⟨h2, h⟩))

/-! ### Dispatches -/

/-- Everything a dispatch can do when it answers a next state (rules R100 to R115): nothing, the
fault of a request inside a dispatch, or, from an idle router, its route's rule. -/
theorem dispatch_eq_next {i : Instr} {s t : State} (hf : i.format = .vec8)
    (h : exec i s = .next t) :
    (t = s ∧ (s.mode ≠ .idle ∨ s.armed = false)) ∨
    (s.mode = .handling ∧ t = { s with faults := s.faults.add .nestedException }) ∨
    (s.mode = .idle ∧
      ((isTerminal i = true ∧ ∃ v err kind info, t = takeTerminal v err kind info s) ∨
       ((∃ err cr2, i = .intIrqTimer err cr2) ∧
          t = eoiReturn 0 (emit .tick (enter s.cfg.irqBase none s))) ∨
       ((∃ err cr2, i = .intIrqKbd err cr2) ∧ ∃ m,
          kbdStep (ps2Byte s) (portIn ps2Port (enter (s.cfg.irqBase + 1) none s)) = .next m ∧
          t = eoiReturn 1 m) ∨
       ((∃ err cr2, i = .intIrqMouse err cr2) ∧ s.mouse.phase = 3 ∧
          t = { s with faults := s.faults.add .mousePhase3 }) ∨
       ((∃ err cr2, i = .intIrqMouse err cr2) ∧ s.mouse.phase ≠ 3 ∧ ∃ m,
          mouseStep (ps2Byte s) (portIn ps2Port (enter (s.cfg.irqBase + 12) none s)) = .next m ∧
          t = eoiReturn 12 m) ∨
       (∃ v, (∃ err cr2, i = .intIrqUnhandled v err cr2) ∧
          t = eoiReturn (v.toNat - s.cfg.irqBase.toNat) (emit (.log v none) (enter v none s))) ∨
       (∃ v err, (∃ cr2, i = .intExcUnhandled v err cr2) ∧
          t = ret (emit (.log v err) (enter v err s))))) := by
  cases i <;> first | (simp [Instr.format] at hf; done) | skip
  all_goals
    simp only [exec, execIntDe, execIntDb, execIntBp, execIntDf, execIntGp, execIntPf,
      execIntIrqTimer, execIntIrqKbd, execIntIrqMouse, execIntIrqUnhandled, execIntExcUnhandled,
      execIntAbsent] at h
    rcases whenAdmitted_eq_next h with h | h | ⟨hm, -, -, -, h⟩
    · exact .inl ⟨h.1, h.2.imp id And.right⟩
    · exact .inr (.inl h)
    refine .inr (.inr ⟨hm, ?_⟩)
  case intIrqKbd.inr.inr =>
    obtain ⟨m, h1, h2⟩ := andThen_eq_next h
    cases h2
    exact .inr (.inr (.inl ⟨⟨_, _, rfl⟩, m, h1, rfl⟩))
  case intIrqMouse.inr.inr =>
    split at h
    · rename_i hp
      cases h
      exact .inr (.inr (.inr (.inl ⟨⟨_, _, rfl⟩, hp, rfl⟩)))
    · rename_i hp
      obtain ⟨m, h1, h2⟩ := andThen_eq_next h
      cases h2
      exact .inr (.inr (.inr (.inr (.inl ⟨⟨_, _, rfl⟩, hp, m, h1, rfl⟩))))
  case intIrqTimer.inr.inr => cases h; exact .inr (.inl ⟨⟨_, _, rfl⟩, rfl⟩)
  case intIrqUnhandled.inr.inr =>
    cases h
    exact .inr (.inr (.inr (.inr (.inr (.inl ⟨_, ⟨_, _, rfl⟩, rfl⟩)))))
  case intExcUnhandled.inr.inr =>
    cases h
    exact .inr (.inr (.inr (.inr (.inr (.inr ⟨_, _, ⟨_, rfl⟩, rfl⟩)))))
  case intAbsent.inr.inr => cases h
  all_goals
    cases h
    exact .inl ⟨rfl, _, _, _, _, rfl⟩

/-! ### Consumer commands -/

/-- A command taken only when CON is ready (rules R45, R164). -/
theorem conIssue_eq_next {run : State → Result} {s t : State} (h : conIssue run s = .next t) :
    t = s ∨ (s.mode = .idle ∧ s.conState = .ready ∧ run s = .next t) := by
  unfold conIssue at h
  split at h
  · rename_i hc; exact .inr ⟨hc.1, hc.2, h⟩
  · cases h; exact .inl rfl

/-- Everything a consumer command can do when it answers a next state (rules R160 to R164). -/
theorem consumer_eq_next {i : Instr} {s t : State} (hf : i.format = .con2)
    (h : exec i s = .next t) :
    t = s ∨ (s.mode = .idle ∧
      ((i = .conHasKey ∧ s.conState = .ready ∧
          t = { s with hasKeyReply := some (!s.kb.empty) }) ∨
       (i = .conArm ∧ s.conState = .ready ∧ t = { s with armed := true }) ∨
       (i = .conReadChar ∧
          ((s.conState = .ready ∨ s.conState = .retry) ∧ testStep s = .next t ∨
           s.conState = .preHlt ∧ t = hltStep s)))) := by
  cases i <;> first | (simp [Instr.format] at hf; done) | skip
  case conHasKey =>
    simp only [exec, execConHasKey] at h
    rcases conIssue_eq_next h with rfl | ⟨h1, h2, h3⟩
    · exact .inl rfl
    · cases h3; exact .inr ⟨h1, .inl ⟨rfl, h2, rfl⟩⟩
  case conArm =>
    simp only [exec, execConArm] at h
    rcases conIssue_eq_next h with rfl | ⟨h1, h2, h3⟩
    · exact .inl rfl
    · cases h3; exact .inr ⟨h1, .inr (.inl ⟨rfl, h2, rfl⟩)⟩
  case conReserved =>
    simp only [exec, execConReserved] at h
    split at h
    · cases h; exact .inl rfl
    · cases h
  case conReadChar =>
    simp only [exec, execConReadChar] at h
    split at h
    · rename_i hm
      split at h
      · rename_i hc; exact .inr ⟨hm, .inr (.inr ⟨rfl, .inl ⟨.inl hc, h⟩⟩)⟩
      · rename_i hc; exact .inr ⟨hm, .inr (.inr ⟨rfl, .inl ⟨.inr hc, h⟩⟩)⟩
      · rename_i hc; cases h; exact .inr ⟨hm, .inr (.inr ⟨rfl, .inr ⟨hc, rfl⟩⟩)⟩
      · cases h; exact .inl rfl
    · cases h; exact .inl rfl

/-- The states the TEST step can answer (rule R161). -/
theorem testStep_eq_next {s t : State} (h : testStep s = .next t) :
    (s.kb.head = s.kb.tail ∧ t = { s with conState := .preHlt }) ∨
    (s.kb.head ≠ s.kb.tail ∧ s.kb.tail < s.cfg.kbufN ∧
      t = { s with
        kb := { s.kb with tail := (s.kb.tail + 1) % s.cfg.kbufN }
        conState := .ready
        trace := s.trace ++ [.read (s.kb.cells.read s.kb.tail)] }) := by
  rcases testStep_cases s with ⟨h1, h2⟩ | ⟨h1, h2, h3⟩ | ⟨_, _, h3⟩
  · rw [h2] at h; cases h; exact .inl ⟨h1, rfl⟩
  · rw [h3] at h; cases h; exact .inr ⟨h1, h2, rfl⟩
  · rw [h3] at h; cases h

/-! ### Closed forms of the shared parts of a dispatch -/

/-- `send_eoi` appends the EOI's events (rule R117). -/
theorem sendEoi_eq (irq : Nat) (s : State) :
    sendEoi irq s = { s with trace := s.trace ++ eoiEvents s.cfg irq } := by
  unfold sendEoi eoiEvents
  split <;> simp [portOut, emit]

/-- The end of an IRQ dispatch (rules R102, R117). -/
theorem eoiReturn_eq (irq : Nat) (s : State) : eoiReturn irq s = { s with
    mode := .idle, conState := s.conState.wake, trace := s.trace ++ eoiEvents s.cfg irq } := by
  simp [eoiReturn, sendEoi_eq, ret]

/-- A whole handled-exception dispatch (rules R101, R103). -/
theorem takeTerminal_eq (v : Byte) (err : Option Word32) (k : ReportKind) (i : Info) (s : State) :
    takeTerminal v err k i s = { s with
      mode := .halted, curVector := v, curErr := err, haltReason := some (v, i)
      trace := s.trace ++ [.report k v i, .halt k] } := by
  simp [takeTerminal, haltReport, halt, emit, enter]

/-- Taking PS2's answer leaves the offers and DISP's answers alone. -/
theorem ps2Answer_rest (a : Agents) :
    (ps2Answer a).2.inputs = a.inputs ∧ (ps2Answer a).2.disp = a.disp := by
  unfold ps2Answer
  split <;> exact ⟨rfl, rfl⟩

/-- Taking DISP's answer leaves the offers and PS2's answers alone. -/
theorem dispAnswer_rest (a : Agents) :
    (dispAnswer a).2.inputs = a.inputs ∧ (dispAnswer a).2.ps2 = a.ps2 := by
  unfold dispAnswer
  split <;> exact ⟨rfl, rfl⟩

/-- The state of a keyboard dispatch before its EOI (rule R112). -/
theorem keyboardDispatch_inner {b v : Byte} {s m : State}
    (h : kbdStep b (portIn ps2Port (enter v none s)) = .next m) :
    m = { s with mode := .handling, curVector := v, curErr := none, agents := (ps2Answer s.agents).2
                 trace := s.trace ++ [.input ps2Port (ps2Byte s)], kmod := m.kmod, kb := m.kb } ∧
    m.kb.tail = s.kb.tail ∧
    (m.kb = s.kb ∨ ∃ ch, (kbdDecode s.cfg s.kmod b).2 = some ch ∧ s.kb.head < s.cfg.kbufN ∧
      (s.kb.head + 1) % s.cfg.kbufN ≠ s.kb.tail ∧
      m.kb = ⟨s.kb.cells.write s.kb.head ch, (s.kb.head + 1) % s.cfg.kbufN, s.kb.tail⟩) := by
  rcases kbdStep_eq_next h with rfl | ⟨ch, h1, h2, h3, rfl⟩
  · exact ⟨rfl, rfl, .inl rfl⟩
  · exact ⟨rfl, rfl, .inr ⟨ch, h1, h2, h3, rfl⟩⟩

/-- The state of a mouse dispatch before its EOIs, below phase 3 (rule R113). -/
theorem mouseDispatch_inner {b v : Byte} {s m : State} (hp : s.mouse.phase ≠ 3)
    (h : mouseStep b (portIn ps2Port (enter v none s)) = .next m) :
    m = { s with mode := .handling, curVector := v, curErr := none, agents := m.agents,
                 trace := m.trace, mouse := m.mouse, cursor := m.cursor } ∧
    m.agents.inputs = s.agents.inputs ∧ m.mouse.phase ≠ 3 ∧
    (∃ es, m.trace = s.trace ++ es ∧ ∀ e ∈ es, ∀ p v, e ≠ .output p v) ∧
    (m.cursor = s.cursor ∨ (m.cursor.savedX = m.cursor.x ∧ m.cursor.savedY = m.cursor.y ∧
       ∃ x d y e, m.cursor.x = movedX s.cfg x d ∧ m.cursor.y = movedY s.cfg y e)) := by
  have hin : (portIn ps2Port (enter v none s)).agents.inputs = s.agents.inputs :=
    (ps2Answer_rest _).1
  rcases mouseStep_eq_next (by exact hp) h with ⟨_, _, rfl⟩ | ⟨_, _, rfl⟩ | ⟨_, rfl⟩ | ⟨_, h⟩
  · exact ⟨rfl, hin, by simp, ⟨[_], rfl, by simp⟩, .inl rfl⟩
  · exact ⟨rfl, hin, hp, ⟨[_], rfl, by simp⟩, .inl rfl⟩
  · exact ⟨rfl, hin, by simp, ⟨[_], rfl, by simp⟩, .inl rfl⟩
  · obtain ⟨m', hm', ht, es, htr, hes⟩ := execMsByte2Complete_eq_next h
    refine ⟨?_, ?_, ?_, ⟨.input ps2Port (ps2Byte s) :: es, ?_, ?_⟩, .inr ?_⟩
    · rw [ht]; rfl
    · rw [ht, ← hin]; exact (dispAnswer_rest _).1
    · rw [ht, hm']; simp
    · rw [htr]; simp; rfl
    · intro e he
      rcases List.mem_cons.mp he with rfl | h
      · simp
      · exact hes e h
    · rw [ht]; exact ⟨rfl, rfl, _, _, _, _, rfl, rfl⟩

/-! ### The other families -/

/-- The four formats. -/
theorem format_cases (i : Instr) :
    i.format = .sc8 ∨ i.format = .vec8 ∨ i.format = .mw10 ∨ i.format = .con2 := by
  cases i <;> simp [Instr.format]

/-- Everything an SC8 operation can do when it answers a next state (rules R138 to R149). -/
theorem keyboard_eq_next {i : Instr} {s t : State} (hf : i.format = .sc8) (h : exec i s = .next t) :
    (∃ k, t = { s with kmod := k } ∧
      ((∃ idx, i = .kbKeyMake idx ∨ i = .kbKeyBreak idx) → k = s.kmod)) ∨
    (∃ idx ch, i = .kbKeyMake idx ∧ keyOutput s.cfg s.kmod idx = some ch ∧
      enqueue ch s = .next t) := by
  cases i <;> first | (simp [Instr.format] at hf; done) | skip
  case kbKeyMake idx =>
    simp only [exec, execKbKeyMake] at h
    split at h
    · cases h; exact .inl ⟨_, rfl, fun _ => rfl⟩
    · exact .inr ⟨idx, _, rfl, ‹_›, h⟩
  case kbKeyBreak idx => cases h; exact .inl ⟨_, rfl, fun _ => rfl⟩
  all_goals cases h; exact .inl ⟨_, rfl, by simp⟩

/-- Everything an MW10 operation can do when it answers a next state (rules R180 to R184). -/
theorem mouse_eq_next {i : Instr} {s t : State} (hf : i.format = .mw10) (h : exec i s = .next t) :
    (∃ b, i = .msSyncAccept b ∧ t = { s with mouse := { s.mouse with pkt0 := b, phase := 1 } }) ∨
    (∃ b, i = .msSyncDiscard b ∧ t = s) ∨
    (∃ b, i = .msByte1 b ∧ t = { s with mouse := { s.mouse with pkt1 := b, phase := 2 } }) ∨
    (∃ b, i = .msByte2Complete b ∧ execMsByte2Complete b s = .next t) ∨
    (∃ b, i = .msPhase3 b ∧ t = { s with faults := s.faults.add .mousePhase3 }) := by
  cases i <;> first | (simp [Instr.format] at hf; done) | skip
  case msSyncAccept b => cases h; exact .inl ⟨b, rfl, rfl⟩
  case msSyncDiscard b => cases h; exact .inr (.inl ⟨b, rfl, rfl⟩)
  case msByte1 b => cases h; exact .inr (.inr (.inl ⟨b, rfl, rfl⟩))
  case msByte2Complete b => exact .inr (.inr (.inr (.inl ⟨b, rfl, h⟩)))
  case msPhase3 b => cases h; exact .inr (.inr (.inr (.inr ⟨b, rfl, rfl⟩)))

/-- After a completed packet Redraw's cells are in the display (rules R58, R186, R187). -/
theorem completePacket_inDisplay {b : Byte} {s : State} (h1 : 1 ≤ s.cfg.width) (h2 : 1 ≤ s.cfg.height)
    (hs : s.cursor.savedValid = true → inDisplay s.cfg s.cursor.savedX s.cursor.savedY = true) :
    redrawInDisplay (completePacket b s) = true := by
  have hx : ∀ x d, 0 ≤ movedX s.cfg x d ∧ movedX s.cfg x d < s.cfg.width := by
    intro x d; simp only [movedX, clamp]; omega
  have hy : ∀ x d, 0 ≤ movedY s.cfg x d ∧ movedY s.cfg x d < s.cfg.height := by
    intro x d; simp only [movedY, clamp]; omega
  simp only [redrawInDisplay, completePacket, emit, movePosition, Bool.and_eq_true,
    Bool.or_eq_true, Bool.not_eq_true']
  constructor
  · simp [inDisplay, hx, hy]
  · cases h : s.cursor.savedValid
    · exact .inl rfl
    · exact .inr (hs h)

/-- Everything a step can do when it answers a next state. -/
theorem step_eq_next {s t : State} (h : step s = .next t) : s.cfg.ok = true ∧
    (t = s ∨ ∃ o rest, s.agents.inputs = o :: rest ∧
      exec (decode s.cfg o.word) { s with agents := { s.agents with inputs := rest } } =
        .next t) := by
  unfold step fetch at h
  split at h
  case isFalse => cases h
  refine ⟨‹_›, ?_⟩
  cases hi : s.agents.inputs with
  | nil => rw [hi] at h; cases h; exact .inl rfl
  | cons o rest => rw [hi] at h; exact .inr ⟨o, rest, rfl, h⟩

/-! ### Refusals -/

theorem kbdStep_ne_refused (sc : Byte) (s : State) (r : Refusal) : kbdStep sc s ≠ .refused r := by
  rw [kbdStep_form]
  split
  · exact nofun
  · intro h
    rcases enqueue_cases _ _ with ⟨-, e⟩ | ⟨-, -, e⟩ | ⟨-, -, e⟩ <;> (rw [e] at h; cases h)

theorem mouseStep_ne_refused (b : Byte) (s : State) (r : Refusal) : mouseStep b s ≠ .refused r := by
  unfold mouseStep
  split
  case h_4 => unfold execMsByte2Complete redraw; split <;> exact nofun
  all_goals exact nofun

theorem testStep_ne_refused (s : State) (r : Refusal) : testStep s ≠ .refused r := by
  intro h
  rcases testStep_cases s with ⟨-, e⟩ | ⟨-, -, e⟩ | ⟨-, -, e⟩ <;> (rw [e] at h; cases h)

/-- An operation with more to run after it is refused only where it is, or the rest is. -/
theorem andThen_eq_refused {x : Result} {f : State → Result} {r : Refusal}
    (h : andThen x f = .refused r) : x = .refused r ∨ ∃ t, x = .next t ∧ f t = .refused r := by
  cases x with
  | next t => exact .inr ⟨t, rfl, h⟩
  | fault e => cases h
  | refused e => exact .inl h

/-- No route refuses but that of an absent vector. -/
theorem routeRun_ne_refused {v : Byte} {err cr2 : Option Word32} {k : Route} (hk : k ≠ .absent)
    (s : State) (r : Refusal) : routeRun v err cr2 k s ≠ .refused r := by
  cases k with
  | absent => exact absurd rfl hk
  | kbd =>
    intro h
    rcases andThen_eq_refused h with h | ⟨_, _, h⟩
    · exact kbdStep_ne_refused _ _ _ h
    · cases h
  | mouse =>
    simp only [routeRun]
    split
    · exact nofun
    · intro h
      rcases andThen_eq_refused h with h | ⟨_, _, h⟩
      · exact mouseStep_ne_refused _ _ _ h
      · cases h
  | _ => exact nofun

/-- The refusals of an offer's operation (rules R100, R116, R163, R212): an absent vector, side
values that do not fit, and the reserved command. -/
theorem exec_offer_eq_refused {o : Offer} {s : State} {r : Refusal}
    (h : exec (decode s.cfg o.word) s = .refused r) :
    (∃ v err cr2, o = .int v err cr2 ∧
      ((r = .absentVector ∧ route s.cfg v = .absent) ∨
        (r = .sideValueShape ∧ badSideValues s.cfg v err cr2 = true))) ∨
      (r = .reservedCon ∧ o = .con 3) := by
  cases o with
  | int v err cr2 =>
    refine .inl ⟨v, err, cr2, rfl, ?_⟩
    rw [show (Offer.int v err cr2).word = .vec8 v err cr2 from rfl, exec_decode_vec8] at h
    unfold whenAdmitted at h
    split at h
    · cases h
    split at h
    · cases h; exact .inl ⟨rfl, ‹_›⟩
    split at h
    · cases h; exact .inr ⟨rfl, ‹_›⟩
    split at h
    · cases h
    split at h
    · split at h <;> cases h
    · exact absurd h (routeRun_ne_refused ‹_› _ _)
  | con op =>
    refine .inr ?_
    have hop : op = 0 ∨ op = 1 ∨ op = 2 ∨ op = 3 := by clear h; revert op; decide
    rcases hop with rfl | rfl | rfl | rfl
    · change execConHasKey s = _ at h
      unfold execConHasKey conIssue at h; split at h <;> cases h
    · change execConReadChar s = _ at h
      unfold execConReadChar at h
      split at h
      · split at h
        · exact absurd h (testStep_ne_refused _ _)
        · exact absurd h (testStep_ne_refused _ _)
        · cases h
        · cases h
      · cases h
    · change execConArm s = _ at h
      unfold execConArm conIssue at h; split at h <;> cases h
    · change execConReserved s = _ at h
      unfold execConReserved at h
      split at h
      · cases h
      · cases h; exact ⟨rfl, rfl⟩

/-! ### Counting round the key buffer -/

/-- The count of rule R35 without the modulus. -/
theorem count_eq {h t n : Nat} (hh : h < n) (ht : t < n) :
    (h + n - t) % n = if t ≤ h then h - t else h + n - t := by
  split
  · rw [show h + n - t = (h - t) + n by omega, Nat.add_mod_right, Nat.mod_eq_of_lt (by omega)]
  · rw [Nat.mod_eq_of_lt (by omega)]

/-- The next index (rules R34, R135). -/
theorem succ_mod {h n : Nat} (hh : h < n) :
    (h + 1) % n = if h + 1 = n then 0 else h + 1 := by
  split
  · rename_i h'; rw [h', Nat.mod_self]
  · rw [Nat.mod_eq_of_lt (by omega)]

/-- The slot an index steps on from `tail`. -/
theorem add_mod_slot {t i n : Nat} (ht : t < n) (hi : i < n) :
    (t + i) % n = if t + i < n then t + i else t + i - n := by
  split
  · rw [Nat.mod_eq_of_lt (by omega)]
  · rw [Nat.mod_eq_sub_mod (by omega), Nat.mod_eq_of_lt (by omega)]

end Sys2Proof.Machine
end

