-- ==== Sys2Proof/Laws/Run.lean ====
section
/-! SUPPORT. What the launch premise, a run's step and a run give (70_reset_and_hazards.md rules R251,
R263): the induction along a run, said once, and what the agents' choice leaves alone. -/

namespace Sys2Proof.Machine

/-! ### The launch premise -/

/-- Item 4 of rule R251. -/
theorem BootDone.unarmed {s : State} (h : BootDone s) : s.armed = false := by rw [h.reset]; rfl

/-- Item 5 of rule R251: no dispatch has begun. -/
theorem BootDone.nothingInFlight {s : State} (h : BootDone s) : s.mode = .idle := by
  rw [h.reset]; rfl

/-- Item 3 of rule R251: no fault is recorded. -/
theorem BootDone.noFaultRecorded {s : State} (h : BootDone s) : noFaultRecorded s := by
  rw [h.reset]; rfl

/-- The reset state with any offers the gate table lets through is a launch. -/
theorem bootDone_init {c : Cfg} {a : Agents} (hc : c.ok = true) (ha : a.throughGates c = true) :
    BootDone { State.init c with agents := a } := ⟨ha, hc, rfl⟩

/-! ### What the agents' choice leaves alone -/

@[simp] theorem registersOk_agents (s : State) (a : Agents) :
    RegistersOk { s with agents := a } ↔ RegistersOk s :=
  ⟨fun r => ⟨r.config, r.notHandling, r.phase, r.head, r.tail, r.x, r.y, r.saved, r.halted⟩,
    fun r => ⟨r.config, r.notHandling, r.phase, r.head, r.tail, r.x, r.y, r.saved, r.halted⟩⟩

@[simp] theorem keyBufferOk_agents (s : State) (a : Agents) :
    KeyBufferOk { s with agents := a } ↔ KeyBufferOk s :=
  ⟨fun k => ⟨k.canonical, k.slots, k.written⟩, fun k => ⟨k.canonical, k.slots, k.written⟩⟩

/-! ### Steps of a run -/

/-- The agents hold out what they please after a step that answers a next state. -/
theorem runStep_of_next {s u : State} {a : Agents} (hm : s.mode ≠ .halted)
    (hi : s.agents.inputs ≠ []) (h : step s = .next u) (ha : a.throughGates u.cfg = true) :
    RunStep s { u with agents := a } :=
  ⟨hm, hi, u, a, h, ha, rfl⟩

/-- What every step of a run keeps and the agents' choice leaves alone, a run's step keeps. -/
theorem RunStep.keeps {P : State → Prop} {s t : State} (h : RunStep s t)
    (hstep : ∀ u, step s = .next u → P u)
    (hag : ∀ (u : State) (a : Agents), P u → P { u with agents := a }) :
    P t := by
  obtain ⟨-, -, u, a, hu, -, rfl⟩ := h
  exact hag u a (hstep u hu)

/-- The gate table stays installed along a run. -/
theorem RunStep.throughGates {s t : State} (h : RunStep s t) :
    t.agents.throughGates t.cfg = true := by
  obtain ⟨-, -, u, a, -, ha, rfl⟩ := h
  exact ha

/-! ### Runs -/

theorem withinRun_zero (last : Option Nat) : withinRun last 0 := fun _ _ => Nat.zero_le _

theorem withinRun_pred {last : Option Nat} {n : Nat} (h : withinRun last (n + 1)) :
    withinRun last n := fun m hm => Nat.le_of_succ_le (h m hm)

@[simp] theorem withinRun_none (n : Nat) : withinRun none n := fun _ h => nomatch h

@[simp] theorem withinRun_some (m n : Nat) : withinRun (some m) n ↔ n ≤ m :=
  ⟨fun h => h m rfl, fun h _ e => by cases e; exact h⟩

/-- The induction along a run: what holds of its first state, a launch, and is kept by every step of
a run holds of each of its states. -/
theorem IsRun.induct {P : State → Prop} {σ : Nat → State} {last : Option Nat} (h : IsRun σ last)
    (h0 : P (σ 0)) (hstep : ∀ s t, P s → RunStep s t → P t) :
    ∀ n, withinRun last n → P (σ n)
  | 0, _ => h0
  | n + 1, hn => hstep _ _ (h.induct h0 hstep n (withinRun_pred hn)) (h.steps n hn)

/-- Every state of a run offers only what goes through the gate table. -/
theorem IsRun.throughGates {σ : Nat → State} {last : Option Nat} (h : IsRun σ last) :
    ∀ n, withinRun last n → (σ n).agents.throughGates (σ n).cfg = true :=
  h.induct (P := fun s => s.agents.throughGates s.cfg = true) h.boot.gates
    (fun _ _ _ r => r.throughGates)

/-- A launch alone is a run of no step. -/
theorem isRun_single {s : State} (h : BootDone s) : IsRun (fun _ => s) (some 0) :=
  ⟨h, fun n hn => absurd ((withinRun_some 0 (n + 1)).1 hn) (Nat.not_succ_le_zero n)⟩

/-- A launch and one step are a run of one step. -/
theorem isRun_pair {s t : State} (h : BootDone s) (hst : RunStep s t) :
    IsRun (fun n => if n = 0 then s else t) (some 1) := by
  refine ⟨h, fun n hn => ?_⟩
  obtain rfl : n = 0 := by have := (withinRun_some 1 (n + 1)).1 hn; omega
  exact hst

/-! ### The end of a run -/

/-- A run has ended stopped exactly when the router is IDLE, nothing is offered, and the
configuration is one rule R8 allows. -/
theorem runEnd_eq_stopped {s : State} :
    runEnd s = .stopped ↔ s.mode = .idle ∧ s.agents.inputs = [] ∧ s.cfg.ok = true := by
  unfold runEnd
  constructor
  · intro h
    split at h
    · cases h
    · split at h
      · cases h
      · cases h
      · rename_i hs
        split at h
        case isTrue hi => exact ⟨hi.2, hi.1, (step_eq_next hs).1⟩
        case isFalse => cases h
  · rintro ⟨hm, hi, hc⟩
    simp [hm, step, fetch, hi, hc]

@[simp] theorem runEnd_halted {s : State} (h : s.mode = .halted) :
    runEnd s = .halted s.haltReason := by simp [runEnd, h]

theorem runEnd_eq_refused {s : State} {r : Refusal} (h : runEnd s = .refused r) :
    step s = .refused r := by
  unfold runEnd at h
  split at h
  · cases h
  · split at h
    · rename_i hs; cases h; exact hs
    · cases h
    · split at h <;> cases h

end Sys2Proof.Machine
end

