-- ==== Sys2Proof/Tests/Slice0.lean ====
section
/-! SUPPORT. The model's own tests. Expected values come from spec/95_test_vectors.md, whose vector
is named in each comment, or by hand from the rules; none was taken from the model. -/

namespace Sys2Proof.Tests

open Sys2Proof.Machine

/-! ### Helpers -/

/-- A field of the next state, where there is one. -/
def observe {α : Type} (f : State → α) : Result → Option α
  | .next s => some (f s)
  | .fault _ => none
  | .refused _ => none

/-- The refusal, where there is one. -/
def refusalOf : Result → Option Refusal
  | .refused r => some r
  | .fault _ => none
  | .next _ => none

/-- Whether the outcome is a next state. -/
def isNext : Result → Bool
  | .next _ => true
  | .fault _ => false
  | .refused _ => false

/-- Whether the outcome is the fault. -/
def isFault (f : Fault) : Result → Bool
  | .fault g => decide (g = f)
  | .next _ => false
  | .refused _ => false

theorem next_of_isNext {r : Result} (h : isNext r = true) : ∃ t, r = .next t := by
  cases r with
  | next t => exact ⟨t, rfl⟩
  | fault e => cases h
  | refused e => cases h

/-- The reset state after ARM, with an answer queued for port 0x60. -/
def armed (b : Byte) : State :=
  { State.reset with armed := true, agents := ⟨[], [b], [(0x20, 0x07)], 0⟩ }

/-- The reset state with a modifier state given as `KMOD`. -/
def withKmod (k : BitVec 5) : State := { State.reset with kmod := KMod.ofBits k }

/-- `KBUF_N = 4`, the value of the BUF vectors. -/
def cfg4 : Cfg := { Cfg.default with kbufN := 4 }

/-- A state of the BUF vectors. -/
def buf4 (cells : Memory) (head tail : Nat) : State :=
  { State.init cfg4 with kb := ⟨cells, head, tail⟩ }

/-- The characters a, b, c in slots 0, 1, 2. -/
def abc : Memory := [(0, 0x61), (1, 0x62), (2, 0x63)]

/-- A mouse state, the cursor at (40, 12), DISP answering `(0x20, 0x07)`. -/
def atPhase (m : Mouse) : State :=
  { State.reset with mouse := m, agents := ⟨[], [], [(0x20, 0x07)], 0⟩ }

/-- The block halted by `INT 0`. -/
def haltedState : State :=
  { State.reset with
    mode := .halted, haltReason := some (0, ⟨none, none⟩), armed := true
    trace := [.report .divideByZero 0 ⟨none, none⟩, .halt .divideByZero] }

/-- A configuration that breaks rule R8: vector RB-11. -/
def badCfg : Cfg := { Cfg.default with irqBase := 0x18 }

/-- A configuration with the IRQ block at 0x28: vectors RB-7 to RB-10. -/
def cfg28 : Cfg := { Cfg.default with irqBase := 0x28 }

/-! ### Configurations and well-formedness -/

/-- R8, vectors RB-11 and RB-12, and one broken constraint of each other kind. -/
theorem test_config_check :
    Cfg.default.ok = true ∧ cfg28.ok = true ∧ badCfg.ok = false ∧
    ({ Cfg.default with irqBase := 0x24 } : Cfg).ok = false ∧
    ({ Cfg.default with irqBase := 0xF8 } : Cfg).ok = false ∧
    ({ Cfg.default with scCaps := 0x2A } : Cfg).ok = false ∧
    ({ Cfg.default with scCaps := 0x1E } : Cfg).ok = false ∧
    ({ Cfg.default with msXsign := 5 } : Cfg).ok = false ∧
    ({ Cfg.default with msXsign := 3 } : Cfg).ok = false ∧
    ({ Cfg.default with kbufN := 1 } : Cfg).ok = false ∧
    ({ Cfg.default with height := 0 } : Cfg).ok = false := by decide

/-- A modifier's index is no plain key (R148, R149). -/
theorem test_wf_keys :
    (Instr.kbKeyMake 0x1E).wf Cfg.default = true ∧ (Instr.kbKeyMake 0x2A).wf Cfg.default = false ∧
    (Instr.kbKeyBreak 0x60).wf Cfg.default = true ∧
    (Instr.kbKeyBreak 0x3A).wf Cfg.default = false := by decide

/-- The vectors of the three classes with an operand (R114 to R116), at their edges. -/
theorem test_wf_vectors :
    (Instr.intIrqUnhandled 0x22 none none).wf Cfg.default = true ∧
    (Instr.intIrqUnhandled 0x2F none none).wf Cfg.default = true ∧
    (Instr.intIrqUnhandled 0x20 none none).wf Cfg.default = false ∧
    (Instr.intIrqUnhandled 0x21 none none).wf Cfg.default = false ∧
    (Instr.intIrqUnhandled 0x2C none none).wf Cfg.default = false ∧
    (Instr.intIrqUnhandled 0x1F none none).wf Cfg.default = false ∧
    (Instr.intIrqUnhandled 0x30 none none).wf Cfg.default = false ∧
    (Instr.intExcUnhandled 0x1F none none).wf Cfg.default = true ∧
    (Instr.intExcUnhandled 0x0E none none).wf Cfg.default = false ∧
    (Instr.intExcUnhandled 0x20 none none).wf Cfg.default = false ∧
    (Instr.intAbsent 0x30 none none).wf Cfg.default = true ∧
    (Instr.intAbsent 0x1F none none).wf Cfg.default = false ∧
    (Instr.intAbsent 0x2F none none).wf Cfg.default = false := by decide

/-- The marker bit (R180, R181). -/
theorem test_wf_marker :
    (Instr.msSyncAccept 0x08).wf Cfg.default = true ∧
    (Instr.msSyncAccept 0xF7).wf Cfg.default = false ∧
    (Instr.msSyncDiscard 0xF7).wf Cfg.default = true ∧
    (Instr.msSyncDiscard 0x08).wf Cfg.default = false := by decide

/-! ### Decoding: a word written out from the spec for every operation -/

/-- R79, bit 7 `rel`, bits 6 to 0 `idx`. -/
theorem test_decode_sc8 :
    decode Cfg.default (.sc8 0b00101010) = .kbLshiftMake ∧
    decode Cfg.default (.sc8 0b00110110) = .kbRshiftMake ∧
    decode Cfg.default (.sc8 0b10101010) = .kbLshiftBreak ∧
    decode Cfg.default (.sc8 0b10110110) = .kbRshiftBreak ∧
    decode Cfg.default (.sc8 0b00011101) = .kbCtrlMake ∧
    decode Cfg.default (.sc8 0b10011101) = .kbCtrlBreak ∧
    decode Cfg.default (.sc8 0b00111000) = .kbAltMake ∧
    decode Cfg.default (.sc8 0b10111000) = .kbAltBreak ∧
    decode Cfg.default (.sc8 0b00111010) = .kbCapsMake ∧
    decode Cfg.default (.sc8 0b10111010) = .kbCapsBreak ∧
    decode Cfg.default (.sc8 0b01111111) = .kbKeyMake 0b1111111 ∧
    decode Cfg.default (.sc8 0b10000000) = .kbKeyBreak 0 := by decide

/-- R80, R72: the vector and its side values. -/
theorem test_decode_vec8 :
    decode Cfg.default (.vec8 0b00000000 none none) = .intDe none none ∧
    decode Cfg.default (.vec8 0b00000001 none none) = .intDb none none ∧
    decode Cfg.default (.vec8 0b00000011 none none) = .intBp none none ∧
    decode Cfg.default (.vec8 0b00001000 (some 0) none) = .intDf (some 0) none ∧
    decode Cfg.default (.vec8 0b00001101 (some 0x10) none) = .intGp (some 0x10) none ∧
    decode Cfg.default (.vec8 0b00001110 (some 2) (some 0xB8000)) = .intPf (some 2) (some 0xB8000) ∧
    decode Cfg.default (.vec8 0b00100000 none none) = .intIrqTimer none none ∧
    decode Cfg.default (.vec8 0b00100001 none none) = .intIrqKbd none none ∧
    decode Cfg.default (.vec8 0b00101100 none none) = .intIrqMouse none none ∧
    decode Cfg.default (.vec8 0b00101111 none none) = .intIrqUnhandled 0x2F none none ∧
    decode Cfg.default (.vec8 0b00000110 none none) = .intExcUnhandled 6 none none ∧
    decode Cfg.default (.vec8 0b00110000 none none) = .intAbsent 0x30 none none := by decide

/-- R81, R73: bits 9 and 8 the phase, bits 7 to 0 the byte. -/
theorem test_decode_mw10 :
    decode Cfg.default (.mw10 0b0011111000) = .msSyncAccept 0b11111000 ∧
    decode Cfg.default (.mw10 0b0011110111) = .msSyncDiscard 0b11110111 ∧
    decode Cfg.default (.mw10 0b0100001000) = .msByte1 0b00001000 ∧
    decode Cfg.default (.mw10 0b1011111110) = .msByte2Complete 0b11111110 ∧
    decode Cfg.default (.mw10 0b1100000000) = .msPhase3 0 := by decide

/-- R74, R82. -/
theorem test_decode_con2 :
    decode Cfg.default (.con2 0b00) = .conHasKey ∧ decode Cfg.default (.con2 0b01) = .conReadChar ∧
    decode Cfg.default (.con2 0b10) = .conArm ∧ decode Cfg.default (.con2 0b11) = .conReserved := by
  decide

/-- Vectors RB-7 to RB-10: the class test with a base that is no multiple of 16. -/
theorem test_decode_base_28 :
    decode cfg28 (.vec8 0x29 none none) = .intIrqKbd none none ∧
    decode cfg28 (.vec8 0x34 none none) = .intIrqMouse none none ∧
    decode cfg28 (.vec8 0x20 none none) = .intAbsent 0x20 none none ∧
    decode cfg28 (.vec8 0x37 none none) = .intIrqUnhandled 0x37 none none := by decide

/-- One table word of each format (the numbering of spec/opcode_table.json). -/
theorem test_table_words :
    decodeTableWord 8 0x2A = some .kbLshiftMake ∧ decodeTableWord 8 0x0E = some (.intPf (some 0) (some 0)) ∧
    decodeTableWord 16 0x208 = some (.msByte2Complete 0x08) ∧ decodeTableWord 8 2 = some .conArm := by
  decide

/-- The placed word runs as the first operation after reset: Left Shift, and the reserved command. -/
theorem test_placed_words :
    observe (fun s => s.kmod.shift) (step (State.reset.withFetchWord 8 0x2A)) = some true ∧
    observe (fun s => s.mouse.phase) (step (State.reset.withFetchWord 16 0x008)) = some 1 ∧
    refusalOf (step (State.reset.withFetchWord 8 3)) = some .reservedCon := by decide

/-! ### SC8 -/

/-- Vectors KB-30 and KB-44. -/
theorem test_lshift_make :
    observe (fun s => s.kmod.bits) (exec .kbLshiftMake (withKmod 0b00000)) = some 0b00001 ∧
    observe (fun s => s.kmod.bits) (exec .kbLshiftMake (withKmod 0b00001)) = some 0b00001 := by decide

/-- Vector KB-32. -/
theorem test_rshift_make :
    observe (fun s => s.kmod.bits) (exec .kbRshiftMake (withKmod 0b00000)) = some 0b00001 := by decide

/-- Vectors KB-31 and KB-45. -/
theorem test_lshift_break :
    observe (fun s => s.kmod.bits) (exec .kbLshiftBreak (withKmod 0b00001)) = some 0b00000 ∧
    observe (fun s => s.kmod.bits) (exec .kbLshiftBreak (withKmod 0b00000)) = some 0b00000 := by decide

/-- Vector KB-33. -/
theorem test_rshift_break :
    observe (fun s => s.kmod.bits) (exec .kbRshiftBreak (withKmod 0b00001)) = some 0b00000 := by decide

/-- Vector KB-34. -/
theorem test_ctrl_make :
    observe (fun s => s.kmod.bits) (exec .kbCtrlMake (withKmod 0b00000)) = some 0b00010 := by decide

/-- Vector KB-35. -/
theorem test_ctrl_break :
    observe (fun s => s.kmod.bits) (exec .kbCtrlBreak (withKmod 0b00010)) = some 0b00000 := by decide

/-- Vector KB-36. -/
theorem test_alt_make :
    observe (fun s => s.kmod.bits) (exec .kbAltMake (withKmod 0b00000)) = some 0b00100 := by decide

/-- Vector KB-37. -/
theorem test_alt_break :
    observe (fun s => s.kmod.bits) (exec .kbAltBreak (withKmod 0b00100)) = some 0b00000 := by decide

/-- Vectors KB-38, KB-39 and KB-41. -/
theorem test_caps_make :
    observe (fun s => s.kmod.bits) (exec .kbCapsMake (withKmod 0b00000)) = some 0b11000 ∧
    observe (fun s => s.kmod.bits) (exec .kbCapsMake (withKmod 0b11000)) = some 0b11000 ∧
    observe (fun s => s.kmod.bits) (exec .kbCapsMake (withKmod 0b01000)) = some 0b10000 := by decide

/-- Vectors KB-40 and KB-43. -/
theorem test_caps_break :
    observe (fun s => s.kmod.bits) (exec .kbCapsBreak (withKmod 0b11000)) = some 0b01000 ∧
    observe (fun s => s.kmod.bits) (exec .kbCapsBreak (withKmod 0b00000)) = some 0b00000 := by decide

/-- Vectors KB-1 to KB-4, KB-8 to KB-11, KB-13, KB-14, KB-24, KB-27 as the pure function of R130. -/
theorem test_key_make_output :
    kbdDecode Cfg.default (KMod.ofBits 0b00000) 0x1E = (KMod.ofBits 0b00000, some 0x61) ∧
    kbdDecode Cfg.default (KMod.ofBits 0b00001) 0x1E = (KMod.ofBits 0b00001, some 0x41) ∧
    kbdDecode Cfg.default (KMod.ofBits 0b01000) 0x1E = (KMod.ofBits 0b01000, some 0x41) ∧
    kbdDecode Cfg.default (KMod.ofBits 0b01001) 0x1E = (KMod.ofBits 0b01001, some 0x61) ∧
    kbdDecode Cfg.default (KMod.ofBits 0b00010) 0x2E = (KMod.ofBits 0b00010, some 0x03) ∧
    kbdDecode Cfg.default (KMod.ofBits 0b01010) 0x2E = (KMod.ofBits 0b01010, some 0x03) ∧
    kbdDecode Cfg.default (KMod.ofBits 0b00011) 0x2E = (KMod.ofBits 0b00011, some 0x43) ∧
    kbdDecode Cfg.default (KMod.ofBits 0b01011) 0x2E = (KMod.ofBits 0b01011, some 0x43) ∧
    kbdDecode Cfg.default (KMod.ofBits 0b00010) 0x2C = (KMod.ofBits 0b00010, some 0x1A) ∧
    kbdDecode Cfg.default (KMod.ofBits 0b00010) 0x1A = (KMod.ofBits 0b00010, some 0x5B) ∧
    kbdDecode Cfg.default (KMod.ofBits 0b00000) 0x3B = (KMod.ofBits 0b00000, none) ∧
    kbdDecode Cfg.default (KMod.ofBits 0b00001) 0x9E = (KMod.ofBits 0b00001, none) := by decide

/-- Vectors BUF-4 and BUF-5, by the D key: `head` wraps, then the full buffer drops. -/
theorem test_key_make_enqueue :
    observe (fun s => (s.kb.head, s.kb.tail, s.kb.cells)) (exec (.kbKeyMake 0x20) (buf4 abc 3 1)) =
      some (0, 1, abc ++ [(3, 0x64)]) ∧
    observe (fun s => (s.kb.head, s.kb.tail, s.kb.cells)) (exec (.kbKeyMake 0x20) (buf4 abc 0 1)) =
      some (0, 1, abc) := by decide

/-- Vectors KB-27 and KS-4: a release and the prefix 0xE0 change nothing. -/
theorem test_key_break :
    observe (fun s => (s.kmod.bits, s.kb)) (exec (.kbKeyBreak 0x1E) (withKmod 0b00001)) =
      some (0b00001, ⟨[], 0, 0⟩) ∧
    observe (fun s => (s.kmod.bits, s.kb)) (exec (.kbKeyBreak 0x60) (withKmod 0b00010)) =
      some (0b00010, ⟨[], 0, 0⟩) := by decide

/-! ### VEC8 -/

/-- Vectors RT-1, RT-32 (reset is unarmed) and RT-25. -/
theorem test_int_de :
    observe (fun s => (s.mode, s.haltReason, s.trace)) (exec (.intDe none none) State.reset) =
      some (.halted, some (0, ⟨none, none⟩),
        [.report .divideByZero 0 ⟨none, none⟩, .halt .divideByZero]) ∧
    refusalOf (exec (.intDe (some 0) none) State.reset) = some .sideValueShape := by decide

/-- Vector RT-2. -/
theorem test_int_db :
    observe (fun s => (s.mode, s.haltReason, s.trace)) (exec (.intDb none none) State.reset) =
      some (.halted, some (1, ⟨none, none⟩), [.report .debug 1 ⟨none, none⟩, .halt .debug]) := by
  decide

/-- Vector RT-3. -/
theorem test_int_bp :
    observe (fun s => (s.mode, s.haltReason, s.trace)) (exec (.intBp none none) State.reset) =
      some (.halted, some (3, ⟨none, none⟩),
        [.report .breakpoint 3 ⟨none, none⟩, .halt .breakpoint]) := by decide

/-- Vector RT-4. -/
theorem test_int_df :
    observe (fun s => (s.mode, s.haltReason, s.trace)) (exec (.intDf (some 0) none) State.reset) =
      some (.halted, some (8, ⟨some 0, none⟩),
        [.report .doubleFault 8 ⟨some 0, none⟩, .halt .doubleFault]) := by decide

/-- Vectors RT-5 and RT-24. -/
theorem test_int_gp :
    observe (fun s => (s.mode, s.curErr, s.trace)) (exec (.intGp (some 0x10) none) State.reset) =
      some (.halted, some 0x10,
        [.report .generalProtection 13 ⟨some 0x10, none⟩, .halt .generalProtection]) ∧
    refusalOf (exec (.intGp none none) State.reset) = some .sideValueShape := by decide

/-- Vectors RT-6 and RT-26. -/
theorem test_int_pf :
    observe (fun s => (s.mode, s.haltReason)) (exec (.intPf (some 2) (some 0xB8000)) State.reset) =
      some (.halted, some (14, ⟨some 2, some 0xB8000⟩)) ∧
    refusalOf (exec (.intPf (some 0) none) State.reset) = some .sideValueShape := by decide

/-- Vectors RT-7, RT-29 and RT-33. -/
theorem test_int_irq_timer :
    observe (fun s => (s.mode, s.curVector, s.trace)) (exec (.intIrqTimer none none) (armed 0)) =
      some (.idle, 0x20, [.tick, .output 0x20 0x20]) ∧
    observe (fun s => s.trace) (exec (.intIrqTimer none none) State.reset) = some [] ∧
    observe (fun s => s.trace) (exec (.intIrqTimer none none) haltedState) =
      some haltedState.trace := by decide

/-- Vector RT-8, and RT-28's refusal. -/
theorem test_int_irq_kbd :
    observe (fun s => (s.mode, s.kb, s.agents.ps2, s.trace))
        (exec (.intIrqKbd none none) (armed 0x1E)) =
      some (.idle, ⟨[(0, 0x61)], 1, 0⟩, [], [.input 0x60 0x1E, .output 0x20 0x20]) ∧
    refusalOf (exec (.intIrqKbd (some 0) none) (armed 0x1E)) = some .sideValueShape := by decide

/-- Vector RT-9. -/
theorem test_int_irq_mouse :
    observe (fun s => (s.mode, s.mouse.phase, s.trace)) (exec (.intIrqMouse none none) (armed 0x08)) =
      some (.idle, 1, [.input 0x60 0x08, .output 0xA0 0x20, .output 0x20 0x20]) := by decide

/-- Vectors RT-11 and RT-12: one EOI, or slave then master. -/
theorem test_int_irq_unhandled :
    observe (fun s => s.trace) (exec (.intIrqUnhandled 0x27 none none) (armed 0)) =
      some [.log 0x27 none, .output 0x20 0x20] ∧
    observe (fun s => (s.agents.ps2, s.trace)) (exec (.intIrqUnhandled 0x2A none none) (armed 5)) =
      some ([5], [.log 0x2A none, .output 0xA0 0x20, .output 0x20 0x20]) := by decide

/-- Vectors RT-17 and RT-31. -/
theorem test_int_exc_unhandled :
    observe (fun s => (s.mode, s.curErr, s.trace))
        (exec (.intExcUnhandled 11 (some 0x5A) none) (armed 0)) =
      some (.idle, some 0x5A, [.log 11 (some 0x5A)]) ∧
    observe (fun s => (s.mode, s.curVector, s.trace))
        (exec (.intExcUnhandled 6 none none) State.reset) =
      some (.idle, 6, [.log 6 none]) := by decide

/-- Vectors RT-20, RT-23 and RT-34. -/
theorem test_int_absent :
    refusalOf (exec (.intAbsent 0x30 none none) State.reset) = some .absentVector ∧
    refusalOf (exec (.intAbsent 0x80 (some 0) none) State.reset) = some .absentVector ∧
    observe (fun s => s.mode) (exec (.intAbsent 0x80 none none) haltedState) = some .halted := by
  decide

/-! ### MW10 -/

/-- Vector E4, its first byte. -/
theorem test_ms_sync_accept :
    observe (fun s => s.mouse) (exec (.msSyncAccept 0x08) (atPhase ⟨0, 0, 0, 0, 0⟩)) =
      some ⟨1, 0x08, 0, 0, 0⟩ := by decide

/-- Vector E5. -/
theorem test_ms_sync_discard :
    observe (fun s => s.mouse) (exec (.msSyncDiscard 0x00) (atPhase ⟨0, 1, 2, 3, 4⟩)) =
      some ⟨0, 1, 2, 3, 4⟩ := by decide

/-- Vector E4, its second byte. -/
theorem test_ms_byte1 :
    observe (fun s => s.mouse) (exec (.msByte1 0x01) (atPhase ⟨1, 0x08, 0, 0, 0⟩)) =
      some ⟨2, 0x08, 0x01, 0, 0⟩ := by decide

/-- Vector E4, its third byte: (40, 12) to (41, 12), `MOUSE(1, 0, 0)`, the first DREAD, and the cell
saved. -/
theorem test_ms_byte2_complete :
    observe (fun s => (s.mouse.phase, s.cursor, s.trace.take 2))
        (exec (.msByte2Complete 0x00) (atPhase ⟨2, 0x08, 0x01, 0, 0⟩)) =
      some (0, ⟨41, 12, true, 41, 12, 0x20, 0x07⟩, [.mouse 1 0 0, .dread 41 12]) := by decide

/-- Program P2, step 7: the left button, `dy = -2` moves down two rows, and the old cell is restored
before the new one is read. -/
theorem test_ms_byte2_restore :
    observe (fun s => (s.mouse.buttons, s.cursor.y, s.trace.take 3))
        (exec (.msByte2Complete 0xFE)
          { atPhase ⟨2, 0x29, 0x00, 0, 0⟩ with cursor := ⟨41, 12, true, 41, 12, 0x41, 0x1F⟩ }) =
      some (1, 14, [.mouse 0 (-2) 1, .dwrite 41 12 0x41 0x1F, .dread 41 14]) := by decide

/-- R184: the fault bit, and the phase unchanged. -/
theorem test_ms_phase3 :
    observe (fun s => (s.faults, s.mouse.phase)) (exec (.msPhase3 0x08) (atPhase ⟨3, 0, 0, 0, 0⟩)) =
      some (⟨true, false⟩, 3) := by decide

/-! ### CON2 -/

/-- Vectors CON-1 and BUF-1. -/
theorem test_con_has_key :
    observe (fun s => s.hasKeyReply) (exec .conHasKey State.reset) = some (some false) ∧
    observe (fun s => s.hasKeyReply) (exec .conHasKey (buf4 abc 3 0)) = some (some true) := by decide

/-- Vector BUF-3, and CON-4's first step: the empty buffer. -/
theorem test_con_read_char_test :
    observe (fun s => (s.kb, s.trace)) (exec .conReadChar (buf4 abc 3 0)) =
      some (⟨abc, 3, 1⟩, [.read 0x61]) ∧
    observe (fun s => (s.conState, s.trace)) (exec .conReadChar State.reset) =
      some (.preHlt, []) := by decide

/-- Vector CON-5: the HLT step sleeps although the buffer holds a character. -/
theorem test_con_read_char_hlt :
    observe (fun s => (s.conState, s.kb.head, s.kb.tail))
        (exec .conReadChar { buf4 abc 1 0 with conState := .preHlt }) = some (.asleep, 1, 0) := by
  decide

/-- Vectors CON-8 and CON-9. -/
theorem test_con_arm :
    observe (fun s => (s.armed, s.trace)) (exec .conArm State.reset) = some (true, []) ∧
    observe (fun s => s.armed) (exec .conArm (armed 0)) = some true := by decide

/-- R163, and R164 when halted. -/
theorem test_con_reserved :
    refusalOf (exec .conReserved State.reset) = some .reservedCon ∧
    observe (fun s => s.mode) (exec .conReserved haltedState) = some .halted := by decide

/-! ### The operations beside the steps -/

/-- Vectors RT-31 before and CON-4: every dispatch that returns wakes the sleeping consumer. -/
theorem test_return_wakes :
    observe (fun s => s.conState)
        (exec (.intExcUnhandled 6 none none) { State.reset with conState := .asleep }) =
      some .retry ∧
    observe (fun s => s.conState)
        (exec (.intExcUnhandled 6 none none) { State.reset with conState := .preHlt }) =
      some .preHlt := by decide

/-- R76: the one pattern that differs from sign extension, and its neighbours (MS vectors). -/
theorem test_mv :
    mv 0 true = 0 ∧ mv 1 true = -255 ∧ mv 0xFF true = -1 ∧ mv 0xFF false = 255 ∧ mv 0x80 true = -128 := by
  decide

/-- R186, R10: the clamp at each edge of the 80 by 25 display. -/
theorem test_clamp :
    movedX Cfg.default 79 255 = 79 ∧ movedX Cfg.default 0 (-255) = 0 ∧ movedY Cfg.default 0 255 = 0 ∧
    movedY Cfg.default 24 (-1) = 24 ∧ movedY Cfg.default 12 1 = 11 := by decide

/-- R33: a slot written with the value an unlisted one reads as is not listed. -/
theorem test_memory_canonical :
    Memory.write abc 1 0 = [(0, 0x61), (2, 0x63)] ∧ Memory.read (Memory.write abc 1 0) 1 = 0 ∧
    (Memory.write abc 1 0).wf = true ∧ Memory.wf [(1, 0x61), (0, 0x62)] = false ∧
    Memory.wf [(0, 0)] = false := by decide

/-- Log 12: an access outside KB or the display faults, from states no run reaches. -/
theorem test_host_faults :
    isFault .keyBufferSlot (exec (.kbKeyMake 0x1E) (buf4 [] 4 0)) = true ∧
    isFault .keyBufferSlot (exec .conReadChar (buf4 [] 0 4)) = true ∧
    isFault .displayCell (exec (.msByte2Complete 0)
      { atPhase ⟨2, 8, 0, 0, 0⟩ with cursor := ⟨0, 0, true, 80, 0, 0, 0⟩ }) = true := by decide

/-- R263: the ends of a run; HANDLING with nothing offered is no Stopped end. -/
theorem test_run_end :
    runEnd State.reset = .stopped ∧ runEnd haltedState = .halted haltedState.haltReason ∧
    runEnd { State.reset with mode := .handling } = .running ∧
    runEnd (offerFirst (.con 3) State.reset) = .refused .reservedCon ∧
    runEnd (offerFirst (.con 2) State.reset) = .running := by decide

/-! ### Witnesses: for every statement with hypotheses, operands and states that meet them -/

/-- The reset state with one offer. -/
def offered (o : Offer) : State := offerFirst o State.reset

/-- The reset state of `cfg4` with two characters held across the buffer's end. -/
def wrapped : State := buf4 [(0, 0x62), (3, 0x61)] 1 3

/-- Both faults recorded. -/
def raiseBoth (s : State) : State := { s with faults := ⟨true, true⟩ }

/-- What the divide-by-zero request leaves from reset (RT vectors; R105). -/
def haltedFrom : State := { haltedState with armed := false }

theorem registersOk_reset : RegistersOk State.reset := by constructor <;> decide

theorem registersOk_offered (o : Offer) : RegistersOk (offered o) :=
  have r := registersOk_reset
  ⟨r.config, r.notHandling, r.phase, r.head, r.tail, r.x, r.y, r.saved, r.halted⟩

theorem keyBufferOk_offered (o : Offer) : KeyBufferOk (offered o) where
  canonical := rfl
  slots := rfl
  written := fun i h => absurd h (by
    show ¬ i < State.reset.kb.count State.reset.cfg.kbufN
    rw [show State.reset.kb.count State.reset.cfg.kbufN = 0 by decide]
    exact Nat.not_lt_zero i)

theorem registersOk_wrapped : RegistersOk wrapped := by constructor <;> decide

/-- Two unread characters, so the clause about unread slots is not empty. -/
theorem keyBufferOk_wrapped : KeyBufferOk wrapped where
  canonical := by decide
  slots := by decide
  written := by
    rw [show wrapped.kb.count wrapped.cfg.kbufN = 2 by decide]
    decide

theorem witness_DecodeOfEncodeIsTheOperation :
    Cfg.default.ok = true ∧ (Instr.kbKeyMake 0x1E).wf Cfg.default = true ∧
    (Instr.intIrqUnhandled 0x2F none none).wf Cfg.default = true ∧
    (Instr.msSyncDiscard 0xF7).wf Cfg.default = true ∧ Instr.conArm.wf Cfg.default = true := by decide

theorem witness_DecoderPicksTheMostSpecificRow :
    Cfg.default.ok = true ∧ Cfg.default.irqBase.toNat % 16 = 0 := by decide

theorem witness_VectorClassesPartitionTheSpace :
    Cfg.default.ok = true ∧ ((0 : Byte).toNat ≤ 31 ∧ (31 : Byte).toNat ≤ 31) ∧
    (Cfg.default.irqBase.toNat ≤ (0x20 : Byte).toNat ∧
      (0x2F : Byte).toNat ≤ Cfg.default.irqBase.toNat + 15) ∧
    (31 < (0x30 : Byte).toNat ∧
      ¬ (Cfg.default.irqBase.toNat ≤ (0x30 : Byte).toNat ∧
        (0x30 : Byte).toNat ≤ Cfg.default.irqBase.toNat + 15)) ∧
    (31 < (0x27 : Byte).toNat ∧
      ¬ (cfg28.irqBase.toNat ≤ (0x27 : Byte).toNat ∧
        (0x27 : Byte).toNat ≤ cfg28.irqBase.toNat + 15)) := by decide

theorem witness_StepRunsTheDecodedOperation :
    ((offered (.con 2)).cfg.ok = true ∧ (offered (.con 2)).agents.inputs = [.con 2]) ∧
    (State.reset.cfg.ok = true ∧ State.reset.agents.inputs = []) ∧
    (State.init badCfg).cfg.ok = false := by decide

theorem witness_EveryStepKeepsTheRegisterInvariant :
    RegistersOk (offered (.int 0x20 none none)) ∧
    ∃ t, step (offered (.int 0x20 none none)) = .next t :=
  ⟨registersOk_offered _, next_of_isNext (by decide)⟩

theorem witness_EveryStepKeepsTheKeyBuffer :
    RegistersOk wrapped ∧ KeyBufferOk wrapped ∧ (∃ t, step wrapped = .next t) ∧
    RegistersOk (offered (.con 1)) ∧ KeyBufferOk (offered (.con 1)) ∧
    ∃ t, step (offered (.con 1)) = .next t :=
  ⟨registersOk_wrapped, keyBufferOk_wrapped, next_of_isNext (by decide), registersOk_offered _,
    keyBufferOk_offered _, next_of_isNext (by decide)⟩

theorem witness_NoFaultUnderTheInvariant : RegistersOk State.reset := registersOk_reset

theorem witness_NoOperationWritesTheConfiguration :
    ∃ t, exec .kbLshiftMake State.reset = .next t := ⟨_, rfl⟩

theorem witness_ShiftKeysWriteTheOneFlag : Cfg.default.ok = true ∧ cfg28.ok = true := by decide

theorem witness_CtrlAndAltWriteTheirFlags : Cfg.default.ok = true ∧ cfg28.ok = true := by decide

theorem witness_CapsLockTogglesOnThePressEdge :
    Cfg.default.ok = true ∧ (withKmod 0b00000).kmod.capsDown = false ∧
    (withKmod 0b10000).kmod.capsDown = true := by decide

theorem witness_KeyMakeEnqueuesTheCharacter :
    Cfg.default.plainKey 0x7F = true ∧ (buf4 abc 3 0).kb.head < (buf4 abc 3 0).cfg.kbufN := by decide

theorem witness_KeyBreakChangesNothing :
    Cfg.default.plainKey 0x60 = true ∧ Cfg.default.plainKey 0 = true := by decide

theorem witness_OutputRuleOfTheDecoder :
    (kbdDecode Cfg.default (KMod.ofBits 0) 0x1E).2 = some 0x61 := by decide

theorem witness_ControlCodesIgnoreCapsLock :
    letterKey Cfg.default 0x2C = true ∧ (KMod.ofBits 0b01010).ctrl = true ∧
    (KMod.ofBits 0b01010).shift = false := by decide

theorem witness_KeyboardOperationsFrame :
    (Instr.kbKeyMake 0x1E).format = .sc8 ∧ (Instr.kbKeyBreak 0x1E).format = .sc8 ∧
    Instr.kbCapsMake.format = .sc8 ∧ (∃ t, exec (.kbKeyMake 0x1E) (buf4 abc 3 1) = .next t) ∧
    (∃ t, exec (.kbKeyBreak 0x1E) State.reset = .next t) ∧
    ∃ t, exec .kbCapsMake State.reset = .next t :=
  ⟨rfl, rfl, rfl, next_of_isNext (by decide), next_of_isNext (by decide),
    next_of_isNext (by decide)⟩

theorem witness_EnqueueWritesOrDrops :
    (buf4 abc 3 0).kb.head < (buf4 abc 3 0).cfg.kbufN ∧
    (buf4 abc 0 1).kb.head < (buf4 abc 0 1).cfg.kbufN := by decide

theorem witness_KeyBufferIsABoundedFifo :
    wrapped.cfg.ok = true ∧ wrapped.kb.cells.wf = true ∧ wrapped.kb.head < wrapped.cfg.kbufN ∧
    wrapped.kb.tail < wrapped.cfg.kbufN ∧ wrapped.mode = .idle ∧ wrapped.conState = .ready ∧
    queue wrapped = [0x61, 0x62] ∧ queue (buf4 abc 3 0) = [0x61, 0x62, 0x63] ∧
    queue (buf4 abc 2 2) = [] := by decide

theorem witness_ExceptionsWithoutCodeReportAndHalt :
    State.reset.mode = .idle ∧ (0 : Byte) ∉ State.reset.cfg.errcodeVectors ∧
    (1 : Byte) ∉ State.reset.cfg.errcodeVectors ∧ (3 : Byte) ∉ State.reset.cfg.errcodeVectors := by
  decide

theorem witness_ExceptionsWithCodeReportAndHalt :
    State.reset.mode = .idle ∧ (8 : Byte) ∈ State.reset.cfg.errcodeVectors ∧
    (13 : Byte) ∈ State.reset.cfg.errcodeVectors ∧ (14 : Byte) ∈ State.reset.cfg.errcodeVectors := by
  decide

theorem witness_TimerTicksAndAcknowledges :
    (armed 0).cfg.ok = true ∧ (armed 0).cfg.irqBase ∉ (armed 0).cfg.errcodeVectors ∧
    (armed 0).mode = .idle ∧ (armed 0).armed = true ∧ State.reset.mode = .idle ∧
    State.reset.armed = false := by decide

theorem witness_KeyboardDispatchRunsTheScancode :
    (armed 0x1E).cfg.ok = true ∧ (armed 0x1E).cfg.irqBase + 1 ∉ (armed 0x1E).cfg.errcodeVectors ∧
    (armed 0x1E).mode = .idle ∧ (armed 0x1E).kb.head < (armed 0x1E).cfg.kbufN ∧
    ps2Answer (armed 0x1E).agents = (0x1E, ⟨[], [], [(0x20, 0x07)], 0⟩) ∧
    (armed 0x1E).armed = true ∧ ({ armed 0x1E with armed := false } : State).armed = false := by decide

/-- At phase 2 with a saved cell, so that the packet completes and restores. -/
def beforeThirdByte : State :=
  { armed 0x00 with
    mouse := ⟨2, 0x08, 0x01, 0, 0⟩, cursor := ⟨41, 12, true, 41, 12, 0x41, 0x1F⟩ }

theorem witness_MouseDispatchRunsTheByte :
    beforeThirdByte.cfg.ok = true ∧
    beforeThirdByte.cfg.irqBase + 12 ∉ beforeThirdByte.cfg.errcodeVectors ∧
    beforeThirdByte.mode = .idle ∧ beforeThirdByte.mouse.phase ≠ 3 ∧
    inDisplay beforeThirdByte.cfg beforeThirdByte.cursor.savedX beforeThirdByte.cursor.savedY = true ∧
    ps2Answer beforeThirdByte.agents = (0x00, ⟨[], [], [(0x20, 0x07)], 0⟩) ∧
    beforeThirdByte.armed = true ∧ State.reset.armed = false := by decide

theorem witness_OtherIrqsAreLoggedAndAcknowledged :
    (armed 0).cfg.ok = true ∧ (Instr.intIrqUnhandled 0x22 none none).wf (armed 0).cfg = true ∧
    (Instr.intIrqUnhandled 0x28 none none).wf (armed 0).cfg = true ∧
    (0x22 : Byte) ∉ (armed 0).cfg.errcodeVectors ∧ (0x28 : Byte) ∉ (armed 0).cfg.errcodeVectors ∧
    (armed 0).mode = .idle ∧ (armed 0).armed = true ∧ State.reset.armed = false := by decide

theorem witness_OtherExceptionsAreLoggedAndReturn :
    State.reset.cfg.ok = true ∧ (Instr.intExcUnhandled 31 none none).wf State.reset.cfg = true ∧
    (Instr.intExcUnhandled 11 (some 0x5A) none).wf State.reset.cfg = true ∧
    (31 : Byte) ∉ State.reset.cfg.errcodeVectors ∧ (11 : Byte) ∈ State.reset.cfg.errcodeVectors ∧
    State.reset.mode = .idle := by decide

theorem witness_AbsentVectorsAreRefused :
    State.reset.cfg.ok = true ∧ 31 < (0x30 : Byte).toNat ∧
    ¬ (State.reset.cfg.irqBase.toNat ≤ (0x30 : Byte).toNat ∧
      (0x30 : Byte).toNat ≤ State.reset.cfg.irqBase.toNat + 15) := by decide

/-- One state and request for each clause: halted; absent; a wrong shape; an IRQ while unarmed; an
IRQ and an exception while HANDLING. -/
theorem witness_AdmissionChecksInOrder :
    haltedState.mode = .halted ∧
    (State.reset.mode ≠ .halted ∧ route State.reset.cfg 0x80 = .absent) ∧
    (route State.reset.cfg 13 ≠ .absent ∧ (13 : Byte) ∈ State.reset.cfg.errcodeVectors) ∧
    (route State.reset.cfg 0x2F ≠ .absent ∧ (0x2F : Byte) ∉ State.reset.cfg.errcodeVectors ∧
      (route State.reset.cfg 0x2F).isIrq = true ∧ State.reset.armed = false) ∧
    (enter 6 none State.reset).mode = .handling ∧
    ((route State.reset.cfg 6).isIrq = false ∧ route State.reset.cfg 6 ≠ .absent ∧
      (6 : Byte) ∉ State.reset.cfg.errcodeVectors) := by decide

/-- Requests of both kinds that run from an idle router: an IRQ while armed, and exceptions while
unarmed, one that halts and one that returns. -/
theorem witness_ExactlyOneEoiPerIrqDispatch :
    (armed 0x1E).mode = .idle ∧ (armed 0x1E).armed = true ∧ (armed 0x1E).mouse.phase ≠ 3 ∧
    isNext (exec (decode (armed 0x1E).cfg (.vec8 0x2F none none)) (armed 0x1E)) = true ∧
    State.reset.mode = .idle ∧ (route State.reset.cfg 6).isIrq = false ∧
    State.reset.mouse.phase ≠ 3 ∧
    isNext (exec (decode State.reset.cfg (.vec8 6 none none)) State.reset) = true := by decide

theorem witness_DispatchReturnsOrHalts :
    State.reset.mode = .idle ∧ (route State.reset.cfg 0).isIrq = false ∧
    State.reset.mouse.phase ≠ 3 ∧
    isNext (exec (decode State.reset.cfg (.vec8 0 none none)) State.reset) = true ∧
    isTerminal (decode State.reset.cfg (.vec8 0 none none)) = true ∧
    isNext (exec (decode State.reset.cfg (.vec8 6 none none)) State.reset) = true ∧
    isTerminal (decode State.reset.cfg (.vec8 6 none none)) = false := by decide

theorem witness_HaltedIsAbsorbing :
    haltedState.mode = .halted ∧ haltedState.cfg.ok = true ∧
    (Instr.intIrqTimer none none).format = .vec8 ∧ Instr.conArm.format = .con2 := by decide

theorem witness_OnlyHandledExceptionsHalt :
    observe (fun s => s.mode) (exec (.intDe none none) State.reset) = some .halted ∧
    observe (fun s => s.mode) (exec (.intDe none none) haltedState) = some .halted := by decide

theorem witness_DispatchFrame :
    (Instr.intIrqKbd none none).format = .vec8 ∧ (Instr.intDe none none).format = .vec8 ∧
    isNext (exec (.intIrqKbd none none) (armed 0x1E)) = true ∧
    isNext (exec (.intIrqMouse none none) (armed 0x08)) = true ∧
    isNext (exec (.intDe none none) State.reset) = true ∧
    State.reset.mode ≠ .handling ∧ State.reset.mouse.phase ≠ 3 ∧
    isTerminal (.intIrqKbd none none) = false := by decide

theorem witness_MouseBytesAreStoredOrDiscarded :
    (0x08 : Byte).getLsbD 3 = true ∧ (0xF7 : Byte).getLsbD 3 = false := by decide

theorem witness_PacketCompletionMovesAndRedraws :
    1 ≤ beforeThirdByte.cfg.width ∧ 1 ≤ beforeThirdByte.cfg.height ∧
    beforeThirdByte.cursor.savedValid = true ∧
    inDisplay beforeThirdByte.cfg beforeThirdByte.cursor.savedX beforeThirdByte.cursor.savedY = true ∧
    dispAnswer beforeThirdByte.agents = ((0x20, 0x07), ⟨[], [0x00], [], 0⟩) ∧
    State.reset.cursor.savedValid = false := by decide

theorem witness_PhaseThreeRaisesTheFault :
    (armed 0).cfg.ok = true ∧ (armed 0).cfg.irqBase + 12 ∉ (armed 0).cfg.errcodeVectors ∧
    ({ armed 0 with mouse := ⟨3, 0, 0, 0, 0⟩ } : State).mode = .idle ∧
    ({ armed 0 with mouse := ⟨3, 0, 0, 0, 0⟩ } : State).armed = true ∧
    ({ armed 0 with mouse := ⟨3, 0, 0, 0, 0⟩ } : State).mouse.phase = 3 := by decide

theorem witness_MovementIsNineBitExceptZero : (1 : Byte) ≠ 0 ∧ (0xFF : Byte) ≠ 0 := by decide

theorem witness_MovementStaysInRange :
    inDisplay Cfg.default 0 0 = true ∧ inDisplay Cfg.default 79 24 = true := by decide

theorem witness_MouseOperationsFrame :
    (Instr.msByte1 0).format = .mw10 ∧ isNext (exec (.msByte1 0) State.reset) = true ∧
    isNext (exec (.msByte2Complete 0) beforeThirdByte) = true ∧
    isNext (exec (.msPhase3 0) State.reset) = true := by decide

theorem witness_HasKeyReturnsTheEmptyTest :
    State.reset.mode = .idle ∧ State.reset.conState = .ready ∧ haltedState.mode = .halted := by decide

/-- Each `con_state` and both buffers; the character read stands in the last slot, so `tail` wraps. -/
theorem witness_ReadCharTestsWaitsAndPops :
    (wrapped.mode = .idle ∧ wrapped.conState = .ready ∧ wrapped.kb.head ≠ wrapped.kb.tail ∧
      wrapped.kb.tail < wrapped.cfg.kbufN) ∧
    (State.reset.mode = .idle ∧ State.reset.kb.head = State.reset.kb.tail) ∧
    ({ State.reset with conState := .retry } : State).conState = .retry ∧
    ({ State.reset with conState := .preHlt } : State).conState = .preHlt ∧
    ({ State.reset with conState := .asleep } : State).conState = .asleep ∧
    haltedState.mode = .halted := by decide

theorem witness_ArmEnablesInterrupts :
    State.reset.mode = .idle ∧ State.reset.conState = .ready := by decide

theorem witness_CommandsOutOfTurnAreHeld :
    (enter 6 none State.reset).mode ≠ .idle ∧
    ({ State.reset with conState := .retry } : State).conState ≠ .ready := by decide

theorem witness_ConsumerOperationsFrame :
    Instr.conReadChar.format = .con2 ∧ isNext (exec .conReadChar wrapped) = true ∧
    isNext (exec .conHasKey wrapped) = true ∧ isNext (exec .conArm wrapped) = true := by decide

theorem witness_OnlyArmWritesArmed :
    isNext (exec .conArm State.reset) = true ∧ isNext (exec .conHasKey State.reset) = true := by decide

theorem witness_NothingRecordedIsErased :
    isNext (exec (.msPhase3 0) (raiseBoth State.reset)) = true ∧
    (raiseBoth State.reset).faults = ⟨true, true⟩ := by decide

theorem witness_UnarmedNothingIsEnqueued :
    State.reset.armed = false ∧ State.reset.mode = .idle ∧
    isNext (step (offered (.int 6 none none))) = true ∧
    ({ offered (.int 6 none none) with conState := .asleep } : State).conState = .asleep := by decide

theorem witness_CheckThenWaitRaceIsAdmitted :
    let s := { armed 0x1E with conState := .preHlt }
    s.cfg.ok = true ∧ s.cfg.irqBase + 1 ∉ s.cfg.errcodeVectors ∧ s.mode = .idle ∧ s.armed = true ∧
    s.conState = .preHlt ∧ s.kb.head = s.kb.tail ∧ s.kb.head < s.cfg.kbufN ∧
    ps2Answer s.agents = (0x1E, ⟨[], [], [(0x20, 0x07)], 0⟩) ∧
    (kbdDecode s.cfg s.kmod 0x1E).2 = some 0x61 := by decide

/-- A launch of the default configuration with one offer the gate table lets through. -/
theorem bootDone_offered {o : Offer} (h : o.throughGates Cfg.default = true) :
    BootDone (offered o) :=
  bootDone_init (c := Cfg.default) (by decide) (by simp [Agents.throughGates, State.reset,
    State.init, h])

/-- R251 bars an absent vector and nothing else; R264 also unfit side values and the reserved
command. -/
theorem test_offers :
    Offer.throughGates Cfg.default (.int 0x80 none none) = false ∧
    Offer.throughGates Cfg.default (.int 0x20 (some 0) none) = true ∧
    Offer.throughGates Cfg.default (.con 3) = true ∧
    Offer.legal Cfg.default (.int 0x20 (some 0) none) = false ∧
    Offer.legal Cfg.default (.con 3) = false ∧ Offer.legal Cfg.default (.con 1) = true := by decide

theorem witness_RunsKeepTheInvariants :
    IsRun (fun _ => offered (.int 6 none none)) (some 0) ∧ withinRun (some 0) 0 :=
  ⟨isRun_single (bootDone_offered (by decide)), withinRun_zero _⟩

/-- A run for each end of R263, and one that has not ended. -/
theorem witness_RunsEndInOneOfThreeWays :
    (IsRun (fun n => if n = 0 then offered (.int 0 none none) else haltedFrom) (some 1) ∧
      runEnd haltedFrom = .halted (some (0, ⟨none, none⟩))) ∧
    (IsRun (fun _ => offered (.con 3)) (some 0) ∧
      runEnd (offered (.con 3)) = .refused .reservedCon) ∧
    (IsRun (fun _ => State.reset) (some 0) ∧ runEnd State.reset = .stopped) ∧
    IsRun (fun _ => offered (.con 2)) (some 0) ∧ runEnd (offered (.con 2)) = .running := by
  refine ⟨⟨isRun_pair (bootDone_offered (by decide)) ?_, by decide⟩,
    ⟨isRun_single (bootDone_offered (by decide)), by decide⟩,
    ⟨isRun_single (bootDone_init (by decide) (by decide)), by decide⟩,
    isRun_single (bootDone_offered (by decide)), by decide⟩
  exact runStep_of_next (u := haltedFrom) (by decide) (by decide) rfl (by decide)

theorem witness_EveryEndOfARunOccurs : Cfg.default.ok = true := by decide

end Sys2Proof.Tests
end

/-! PROOFS. What the block records only grows (00_scope.md rule R12, 10_state.md rule R26,
60_exceptions.md rule R213). -/

namespace Sys2Proof.Machine

/-! ### A record that grows -/

/-- Nothing recorded in `s` is missing in `t`: the trace is extended at its end (rule R12) and every
fault bit stays set (rules R26, R213). -/
structure RecordGrows (s t : State) : Prop where
  trace : s.trace <+: t.trace
  mousePhase3 : s.faults.mousePhase3 = true → t.faults.mousePhase3 = true
  nestedException : s.faults.nestedException = true → t.faults.nestedException = true

/-- An operation that writes no fault bit grows the record when it extends the trace. -/
theorem RecordGrows.of_faults_eq {s t : State} (ht : s.trace <+: t.trace)
    (hf : t.faults = s.faults) : RecordGrows s t :=
  ⟨ht, by rw [hf]; exact id, by rw [hf]; exact id⟩

/-- An operation that writes neither the trace nor a fault bit. -/
theorem RecordGrows.of_record_eq {s t : State} (ht : t.trace = s.trace)
    (hf : t.faults = s.faults) : RecordGrows s t :=
  .of_faults_eq (by rw [ht]) hf

/-- Raising a fault clears none (rule R213). -/
theorem recordGrows_addFault (s : State) (f : FaultName) :
    RecordGrows s { s with faults := s.faults.add f } := by
  refine ⟨List.prefix_rfl, ?_, ?_⟩ <;> cases f <;> simp [FaultSet.add]

/-- The end of an IRQ dispatch only appends its EOI (rule R117). -/
theorem recordGrows_eoiReturn {s m : State} (irq : Nat) (ht : s.trace <+: m.trace)
    (hf : m.faults = s.faults) : RecordGrows s (eoiReturn irq m) :=
  .of_faults_eq (by simpa using ht.trans (List.prefix_append _ _)) (by simpa using hf)

/-! ### The four families -/

theorem recordGrows_of_keyboard {i : Instr} {s t : State} (hf : i.format = .sc8)
    (h : exec i s = .next t) : RecordGrows s t := by
  rcases keyboard_eq_next hf h with ⟨k, rfl, -⟩ | ⟨idx, ch, -, -, he⟩
  · exact .of_record_eq rfl rfl
  · rcases enqueue_eq_next he with rfl | ⟨-, -, rfl⟩ <;> exact .of_record_eq rfl rfl

theorem recordGrows_of_mouse {i : Instr} {s t : State} (hf : i.format = .mw10)
    (h : exec i s = .next t) : RecordGrows s t := by
  rcases mouse_eq_next hf h with
    ⟨b, -, rfl⟩ | ⟨b, -, rfl⟩ | ⟨b, -, rfl⟩ | ⟨b, -, hb⟩ | ⟨b, -, rfl⟩
  · exact .of_record_eq rfl rfl
  · exact .of_record_eq rfl rfl
  · exact .of_record_eq rfl rfl
  · obtain ⟨m, -, ht, es, htrace, -⟩ := execMsByte2Complete_eq_next hb
    exact .of_faults_eq ⟨es, htrace.symm⟩ (by rw [ht])
  · exact recordGrows_addFault s _

theorem recordGrows_of_consumer {i : Instr} {s t : State} (hf : i.format = .con2)
    (h : exec i s = .next t) : RecordGrows s t := by
  rcases consumer_eq_next hf h with
    rfl | ⟨-, ⟨-, -, rfl⟩ | ⟨-, -, rfl⟩ | ⟨-, ⟨-, ht⟩ | ⟨-, rfl⟩⟩⟩
  · exact .of_record_eq rfl rfl
  · exact .of_record_eq rfl rfl
  · exact .of_record_eq rfl rfl
  · rcases testStep_eq_next ht with ⟨-, rfl⟩ | ⟨-, -, rfl⟩
    · exact .of_record_eq rfl rfl
    · exact .of_faults_eq (List.prefix_append _ _) rfl
  · exact .of_record_eq rfl rfl

/-- A dispatch holds, raises a fault, or runs its route; a route that returns with an EOI grows the
record by what its device action did before it. -/
theorem recordGrows_of_dispatch {i : Instr} {s t : State} (hf : i.format = .vec8)
    (h : exec i s = .next t) : RecordGrows s t := by
  rcases dispatch_eq_next hf h with ⟨rfl, -⟩ | ⟨-, rfl⟩ | ⟨-, hrun⟩
  · exact .of_record_eq rfl rfl
  · exact recordGrows_addFault s _
  rcases hrun with ⟨-, v, err, kind, info, rfl⟩ | ⟨-, rfl⟩ | ⟨-, m, hm, rfl⟩ | ⟨-, -, rfl⟩ |
    ⟨-, hp, m, hm, rfl⟩ | ⟨v, -, rfl⟩ | ⟨v, err, -, rfl⟩
  · exact .of_faults_eq (by simp) rfl
  · exact recordGrows_eoiReturn _ (List.prefix_append _ _) rfl
  · obtain ⟨hm', -, -⟩ := keyboardDispatch_inner hm
    rw [hm']
    exact recordGrows_eoiReturn _ (List.prefix_append _ _) rfl
  · exact recordGrows_addFault s _
  · obtain ⟨hm', -, -, ⟨es, htrace, -⟩, -⟩ := mouseDispatch_inner hp hm
    exact recordGrows_eoiReturn _ ⟨es, htrace.symm⟩ (by rw [hm'])
  · exact recordGrows_eoiReturn _ (List.prefix_append _ _) rfl
  · exact .of_faults_eq (List.prefix_append _ _) rfl

/-! ### Every operation -/

theorem recordGrows_of_exec {i : Instr} {s t : State} (h : exec i s = .next t) :
    RecordGrows s t := by
  rcases format_cases i with hf | hf | hf | hf
  · exact recordGrows_of_keyboard hf h
  · exact recordGrows_of_dispatch hf h
  · exact recordGrows_of_mouse hf h
  · exact recordGrows_of_consumer hf h

/-- Settles O54: it holds, family by family, from what each family of operations can answer. -/
theorem nothingRecordedIsErased : Obligations.NothingRecordedIsErased := by
  intro i s t h
  obtain ⟨⟨es, htrace⟩, hphase, hnested⟩ := recordGrows_of_exec h
  exact ⟨⟨es, htrace.symm⟩, hphase, hnested⟩

end Sys2Proof.Machine

/-! PROOFS. What each family of operations leaves unchanged (10_state.md rules R23, R32, R39, R42),
and the rules of the whole machine that follow: nothing writes the configuration, only ARM writes
`armed`. -/

namespace Sys2Proof.Machine

/-! ### The key buffer's two updates -/

/-- The key buffer after Enqueue stored a character (rule R135). -/
def KeyBuffer.push (k : KeyBuffer) (n : Nat) (ch : Byte) : KeyBuffer :=
  { cells := k.cells.write k.head ch, head := (k.head + 1) % n, tail := k.tail }

/-- The key buffer after READ_CHAR took the oldest character (rule R161). -/
def KeyBuffer.pop (k : KeyBuffer) (n : Nat) : KeyBuffer := { k with tail := (k.tail + 1) % n }

@[simp] theorem push_tail (k : KeyBuffer) (n : Nat) (ch : Byte) : (k.push n ch).tail = k.tail := rfl

theorem push_read_other {k : KeyBuffer} {a : Nat} (ha : a ≠ k.head) (n : Nat) (ch : Byte) :
    (k.push n ch).cells.read a = k.cells.read a := memory_read_write_other ha ch

theorem full_eq_false {k : KeyBuffer} {n : Nat} (h : (k.head + 1) % n ≠ k.tail) :
    k.full n = false := decide_eq_false h

/-- Enqueue in terms of the buffer: dropped, or pushed where there is room (rule R135). -/
theorem enqueue_kb {ch : Byte} {s t : State} (h : enqueue ch s = .next t) :
    t = s ∨ (s.kb.full s.cfg.kbufN = false ∧ t = { s with kb := s.kb.push s.cfg.kbufN ch }) := by
  rcases enqueue_eq_next h with rfl | ⟨-, hfull, rfl⟩
  · exact .inl rfl
  · exact .inr ⟨full_eq_false hfull, rfl⟩

/-- The Ctrl rule never gives the null character (rules R133, R134). -/
theorem controlCode_ne_zero {k : KMod} {ch : Byte} (h : ch ≠ 0) : controlCode k ch ≠ 0 := by
  unfold controlCode isLower
  split
  · rename_i hc
    simp only [Bool.and_eq_true, decide_eq_true_eq] at hc
    bv_omega
  · exact h

/-- The decode function yields no null character (rule R134). -/
theorem kbdDecode_ne_zero {c : Cfg} {k : KMod} {sc ch : Byte} (h : (kbdDecode c k sc).2 = some ch) :
    ch ≠ 0 := by
  unfold kbdDecode at h
  split at h
  case h_11 =>
    simp only [keyOutput] at h
    split at h
    · cases h
    · rename_i hne
      cases h
      exact controlCode_ne_zero hne
  all_goals cases h

/-! ### SC8 and MW10 -/

/-- Settles O23: a flag operation writes `kmod` alone, and KB_KEY_MAKE at most pushes. -/
theorem keyboardOperationsFrame : Obligations.KeyboardOperationsFrame := by
  intro i s t hf h
  rcases keyboard_eq_next hf h with ⟨k, rfl, hk⟩ | ⟨idx, ch, rfl, -, he⟩
  · exact ⟨rfl, rfl, fun _ _ => rfl, hk, fun _ => rfl⟩
  · rcases enqueue_kb he with rfl | ⟨-, rfl⟩
    · exact ⟨rfl, rfl, fun _ _ => rfl, fun _ => rfl, fun _ => rfl⟩
    · exact ⟨rfl, rfl, fun _ ha => push_read_other ha _ _, fun _ => rfl,
        fun hi => absurd rfl (hi idx)⟩

/-- Settles O46: each operation's next state is written out; only a completed packet's goes beyond
the assembler and the faults. -/
theorem mouseOperationsFrame : Obligations.MouseOperationsFrame := by
  intro i s t hf h
  rcases mouse_eq_next hf h with
    ⟨b, rfl, rfl⟩ | ⟨b, rfl, rfl⟩ | ⟨b, rfl, rfl⟩ | ⟨b, rfl, hb⟩ | ⟨b, rfl, rfl⟩
  case inr.inr.inr.inl =>
    obtain ⟨m, rfl, ht, -⟩ := execMsByte2Complete_eq_next hb
    obtain ⟨hinputs, hps2⟩ := dispAnswer_rest s.agents
    rw [ht]
    exact ⟨rfl, hinputs, hps2, fun hi => absurd rfl (hi b), fun _ => rfl, fun _ => rfl, fun _ => rfl⟩
  all_goals simp

/-! ### CON2 -/

/-- The key buffer after a consumer command: READ_CHAR takes one character at most. -/
theorem consumer_kb {i : Instr} {s t : State} (hf : i.format = .con2) (h : exec i s = .next t) :
    t.kb = s.kb ∨ (s.kb.head ≠ s.kb.tail ∧ t.kb = s.kb.pop s.cfg.kbufN) := by
  rcases consumer_eq_next hf h with
    rfl | ⟨-, ⟨-, -, rfl⟩ | ⟨-, -, rfl⟩ | ⟨-, ⟨-, ht⟩ | ⟨-, rfl⟩⟩⟩
  case inr.inr.inr.inl =>
    rcases testStep_eq_next ht with ⟨-, rfl⟩ | ⟨hne, -, rfl⟩
    · exact .inl rfl
    · exact .inr ⟨hne, rfl⟩
  all_goals exact .inl rfl

/-- Settles O52: a command is held, or its next state is written out. -/
theorem consumerOperationsFrame : Obligations.ConsumerOperationsFrame := by
  intro i s t hf h
  rcases consumer_eq_next hf h with
    rfl | ⟨-, ⟨rfl, -, rfl⟩ | ⟨rfl, -, rfl⟩ | ⟨rfl, ⟨-, ht⟩ | ⟨-, rfl⟩⟩⟩
  case inr.inr.inr.inl => rcases testStep_eq_next ht with ⟨-, rfl⟩ | ⟨-, -, rfl⟩ <;> simp
  all_goals simp [hltStep]

/-! ### VEC8 -/

/-- The cursor part of rule R41 in a configuration: the position in the display, and a saved cell
under it. -/
structure CursorOk (c : Cfg) (k : Cursor) : Prop where
  x : 0 ≤ k.x ∧ k.x < c.width
  y : 0 ≤ k.y ∧ k.y < c.height
  saved : k.savedValid = true → k.savedX = k.x ∧ k.savedY = k.y

theorem movedX_range {c : Cfg} (h : 1 ≤ c.width) (x dx : Int) :
    0 ≤ movedX c x dx ∧ movedX c x dx < c.width := by
  unfold movedX clamp
  omega

theorem movedY_range {c : Cfg} (h : 1 ≤ c.height) (y dy : Int) :
    0 ≤ movedY c y dy ∧ movedY c y dy < c.height := by
  unfold movedY clamp
  omega

/-- What a dispatch that returns has done (rules R111 to R115). The keyboard state is the keyboard
route's, at most a character that is not null is pushed; the mouse, cursor and display state are the
mouse route's. -/
structure Serviced (i : Instr) (s t : State) : Prop where
  frame : t = { s with
    mode := .idle, conState := s.conState.wake, curVector := t.curVector, curErr := t.curErr
    kmod := t.kmod, kb := t.kb, mouse := t.mouse, cursor := t.cursor
    trace := t.trace, agents := t.agents }
  inputs : t.agents.inputs = s.agents.inputs
  keyboard : (∀ err cr2, i ≠ .intIrqKbd err cr2) → t.kmod = s.kmod ∧ t.kb = s.kb
  buffer : t.kb = s.kb ∨ ∃ ch, ch ≠ 0 ∧ s.kb.full s.cfg.kbufN = false ∧
    t.kb = s.kb.push s.cfg.kbufN ch
  mouse : (∀ err cr2, i ≠ .intIrqMouse err cr2) →
    t.mouse = s.mouse ∧ t.cursor = s.cursor ∧ t.agents.disp = s.agents.disp
  agents : (∀ err cr2, i ≠ .intIrqKbd err cr2) → (∀ err cr2, i ≠ .intIrqMouse err cr2) →
    t.agents = s.agents
  phase : s.mouse.phase ≠ 3 → t.mouse.phase ≠ 3
  cursor : s.cfg.ok = true → CursorOk s.cfg s.cursor → CursorOk s.cfg t.cursor

/-- A route without a device action: entry, events and return. -/
theorem serviced_of_no_device {i : Instr} {s t : State} (h : t = { s with
    mode := .idle, conState := s.conState.wake, curVector := t.curVector, curErr := t.curErr
    trace := t.trace }) : Serviced i s t := by
  rw [h]
  exact ⟨rfl, rfl, fun _ => ⟨rfl, rfl⟩, .inl rfl, fun _ => ⟨rfl, rfl, rfl⟩, fun _ _ => rfl, id,
    fun _ => id⟩

/-- The keyboard route (rule R112). -/
theorem serviced_keyboard {err cr2 : Option Word32} {b v : Byte} {s m : State}
    (h : kbdStep b (portIn ps2Port (enter v none s)) = .next m) :
    Serviced (.intIrqKbd err cr2) s (eoiReturn 1 m) := by
  obtain ⟨hm, -, hkb⟩ := keyboardDispatch_inner h
  obtain ⟨hinputs, hdisp⟩ := ps2Answer_rest s.agents
  have hbuffer : m.kb = s.kb ∨ ∃ ch, ch ≠ 0 ∧ s.kb.full s.cfg.kbufN = false ∧
      m.kb = s.kb.push s.cfg.kbufN ch := by
    rcases hkb with hkb | ⟨ch, hch, -, hfull, hkb⟩
    · exact .inl hkb
    · exact .inr ⟨ch, kbdDecode_ne_zero hch, full_eq_false hfull, hkb⟩
  rw [eoiReturn_eq, hm]
  exact ⟨rfl, hinputs, fun hi => absurd rfl (hi _ _), hbuffer, fun _ => ⟨rfl, rfl, hdisp⟩,
    fun hi => absurd rfl (hi _ _), id, fun _ => id⟩

/-- The mouse route below phase 3 (rule R113). -/
theorem serviced_mouse {err cr2 : Option Word32} {b v : Byte} {s m : State}
    (hp : s.mouse.phase ≠ 3) (h : mouseStep b (portIn ps2Port (enter v none s)) = .next m) :
    Serviced (.intIrqMouse err cr2) s (eoiReturn 12 m) := by
  obtain ⟨hm, hinputs, hphase, -, hcur⟩ := mouseDispatch_inner hp h
  have hcursor : s.cfg.ok = true → CursorOk s.cfg s.cursor → CursorOk s.cfg m.cursor := by
    intro hok hs
    obtain ⟨-, -, hw, hh⟩ := ok_sizes hok
    rcases hcur with hcur | ⟨hsx, hsy, x, dx, y, dy, hx, hy⟩
    · rwa [hcur]
    · exact ⟨hx ▸ movedX_range hw x dx, hy ▸ movedY_range hh y dy, fun _ => ⟨hsx, hsy⟩⟩
  rw [eoiReturn_eq, hm]
  exact ⟨rfl, hinputs, fun _ => ⟨rfl, rfl⟩, .inl rfl, fun hi => absurd rfl (hi _ _),
    fun _ hi => absurd rfl (hi _ _), fun _ => hphase, hcursor⟩

/-- A dispatch that answers a next state is held, records a fault, halts the block, or has serviced
its request and returned (rules R100 to R116). -/
theorem dispatch_outcome {i : Instr} {s t : State} (hf : i.format = .vec8)
    (h : exec i s = .next t) :
    t = s ∨
    (∃ f, (s.mode = .handling ∨ s.mouse.phase = 3) ∧ t = { s with faults := s.faults.add f }) ∨
    (isTerminal i = true ∧ ∃ v err kind info, t = takeTerminal v err kind info s) ∨
    (s.mode = .idle ∧ Serviced i s t) := by
  rcases dispatch_eq_next hf h with ⟨rfl, -⟩ | ⟨hm, rfl⟩ | ⟨hm, hrun⟩
  · exact .inl rfl
  · exact .inr (.inl ⟨_, .inl hm, rfl⟩)
  rcases hrun with ht | ⟨-, rfl⟩ | ⟨⟨err, cr2, rfl⟩, m, hk, rfl⟩ | ⟨-, hp, rfl⟩ |
    ⟨⟨err, cr2, rfl⟩, hp, m, hk, rfl⟩ | ⟨v, -, rfl⟩ | ⟨v, err, -, rfl⟩
  · exact .inr (.inr (.inl ht))
  · exact .inr (.inr (.inr ⟨hm, serviced_of_no_device (by rw [eoiReturn_eq]; rfl)⟩))
  · exact .inr (.inr (.inr ⟨hm, serviced_keyboard hk⟩))
  · exact .inr (.inl ⟨_, .inr hp, rfl⟩)
  · exact .inr (.inr (.inr ⟨hm, serviced_mouse hp hk⟩))
  · exact .inr (.inr (.inr ⟨hm, serviced_of_no_device (by rw [eoiReturn_eq]; rfl)⟩))
  · exact .inr (.inr (.inr ⟨hm, serviced_of_no_device rfl⟩))

/-- Settles O40: only a serviced request changes more than a fault bit or the halt registers, and
`Serviced` says which route changes what. -/
theorem dispatchFrame : Obligations.DispatchFrame := by
  intro i s t hf h
  rcases dispatch_outcome hf h with
    rfl | ⟨f, hwhere, rfl⟩ | ⟨hterm, v, err, kind, info, rfl⟩ | ⟨-, hserv⟩
  · simp
  · refine ⟨rfl, rfl, rfl, rfl, fun _ _ => rfl, fun _ => ⟨rfl, rfl⟩, fun _ => ⟨rfl, rfl, rfl⟩,
      fun _ _ => rfl, fun _ => rfl, fun hmode hphase => ?_⟩
    exact absurd hwhere (not_or.mpr ⟨hmode, hphase⟩)
  · simp [hterm]
  · have htail : t.kb.tail = s.kb.tail := by
      rcases hserv.buffer with hkb | ⟨ch, -, -, hkb⟩
      · rw [hkb]
      · rw [hkb, push_tail]
    have hcells : ∀ a, a ≠ s.kb.head → t.kb.cells.read a = s.kb.cells.read a := by
      intro a ha
      rcases hserv.buffer with hkb | ⟨ch, -, -, hkb⟩
      · rw [hkb]
      · rw [hkb]
        exact push_read_other ha _ _
    exact ⟨by rw [hserv.frame], by rw [hserv.frame], hserv.inputs, htail, hcells,
      hserv.keyboard, hserv.mouse, hserv.agents, fun _ => by rw [hserv.frame],
      fun _ _ => by rw [hserv.frame]⟩

theorem dispatch_cfg {i : Instr} {s t : State} (hf : i.format = .vec8) (h : exec i s = .next t) :
    t.cfg = s.cfg := by
  rcases dispatch_outcome hf h with
    rfl | ⟨f, -, rfl⟩ | ⟨-, v, err, kind, info, rfl⟩ | ⟨-, hserv⟩
  · rfl
  · rfl
  · rfl
  · exact by rw [hserv.frame]

/-! ### Every operation -/

/-- Settles O13: `cfg` is in no family's list of what it writes. -/
theorem noOperationWritesTheConfiguration : Obligations.NoOperationWritesTheConfiguration := by
  intro i s t h
  rcases format_cases i with hf | hf | hf | hf
  · rw [(keyboardOperationsFrame i s t hf h).1]
  · exact dispatch_cfg hf h
  · rw [(mouseOperationsFrame i s t hf h).1]
  · rw [(consumerOperationsFrame i s t hf h).1]

/-- ARM is held, or sets `armed` (rule R162). -/
theorem arm_armed {s t : State} (h : exec .conArm s = .next t) :
    t.armed = s.armed ∨ t.armed = true := by
  rw [exec_conArm, execConArm] at h
  rcases conIssue_eq_next h with rfl | ⟨-, -, hrun⟩
  · exact .inl rfl
  · cases hrun
    exact .inr rfl

/-- Settles O53: outside ARM the frame of each family holds `armed` fixed. -/
theorem onlyArmWritesArmed : Obligations.OnlyArmWritesArmed := by
  intro i s t h
  by_cases hi : i = .conArm
  · subst hi
    exact (arm_armed h).imp_right fun ht => ⟨rfl, ht⟩
  refine .inl ?_
  rcases format_cases i with hf | hf | hf | hf
  · rw [(keyboardOperationsFrame i s t hf h).1]
  · exact (dispatchFrame i s t hf h).1
  · rw [(mouseOperationsFrame i s t hf h).1]
  · obtain ⟨-, -, -, -, harmed, -⟩ := consumerOperationsFrame i s t hf h
    exact harmed hi

end Sys2Proof.Machine

/-! PROOFS. The key buffer is a bounded first-in first-out queue (10_state.md rules R33 to R35,
41_keyboard.md rules R135, R161). -/

namespace Sys2Proof.Machine

/-! ### Counting -/

section
variable {k : KeyBuffer} {n : Nat} (hh : k.head < n) (ht : k.tail < n)
include hh ht

theorem count_eq_zero_iff : k.count n = 0 ↔ k.head = k.tail := by
  rw [KeyBuffer.count, count_eq hh ht]
  split <;> omega

/-- The buffer is full when all slots but one are taken (rule R35). -/
theorem full_iff : k.full n = true ↔ k.count n = n - 1 := by
  rw [KeyBuffer.full, decide_eq_true_eq, KeyBuffer.count, count_eq hh ht, succ_mod hh]
  split_ifs <;> omega

theorem count_push (hf : k.full n = false) (ch : Byte) :
    (k.push n ch).count n = k.count n + 1 := by
  have hne : (k.head + 1) % n ≠ k.tail := of_decide_eq_false hf
  have hlt : (k.head + 1) % n < n := Nat.mod_lt _ (by omega)
  rw [KeyBuffer.count, KeyBuffer.count, count_eq hh ht]
  simp only [KeyBuffer.push]
  rw [count_eq hlt ht]
  rw [succ_mod hh] at hne ⊢
  split_ifs at hne ⊢ <;> omega

theorem count_pop (hne : k.head ≠ k.tail) : k.count n = (k.pop n).count n + 1 := by
  have hlt : (k.tail + 1) % n < n := Nat.mod_lt _ (by omega)
  rw [KeyBuffer.count, KeyBuffer.count, count_eq hh ht]
  simp only [KeyBuffer.pop]
  rw [count_eq hh hlt, succ_mod ht]
  split_ifs <;> omega

/-- Counted from `tail`, the slot to write comes right after the unread ones. -/
theorem slot_eq_head_iff {i : Nat} (hi : i < n) : (k.tail + i) % n = k.head ↔ i = k.count n := by
  rw [KeyBuffer.count, count_eq hh ht, add_mod_slot ht hi]
  split_ifs <;> omega

end

/-! ### The queue after each update -/

theorem queue_length (s : State) : (queue s).length = s.kb.count s.cfg.kbufN := by
  simp [queue]

theorem queue_congr {s t : State} (hcfg : t.cfg = s.cfg) (hkb : t.kb = s.kb) :
    queue t = queue s := by
  have hunread : unread t = unread s := by
    funext i
    rw [unread, unread, hcfg, hkb]
  rw [queue, queue, hunread, hcfg, hkb]

section
variable {s t : State} (hcfg : t.cfg = s.cfg)
  (hh : s.kb.head < s.cfg.kbufN) (ht : s.kb.tail < s.cfg.kbufN)
include hh ht

omit hh in
theorem count_lt : s.kb.count s.cfg.kbufN < s.cfg.kbufN := Nat.mod_lt _ (by omega)

include hcfg

/-- A pushed character is the newest of the queue. -/
theorem queue_push (hwf : s.kb.cells.wf = true) (hf : s.kb.full s.cfg.kbufN = false) {ch : Byte}
    (hkb : t.kb = s.kb.push s.cfg.kbufN ch) : queue t = queue s ++ [ch] := by
  have hlt := count_lt ht
  have hold : ∀ i ∈ List.range (s.kb.count s.cfg.kbufN), unread t i = unread s i := by
    intro i hi
    have hi := List.mem_range.mp hi
    rw [unread, unread, hcfg, hkb, push_tail]
    exact push_read_other (mt (slot_eq_head_iff hh ht (by omega)).mp (by omega)) _ _
  have hnew : unread t (s.kb.count s.cfg.kbufN) = ch := by
    rw [unread, hcfg, hkb, push_tail, (slot_eq_head_iff hh ht hlt).mpr rfl]
    exact memory_read_write_same hwf _ _
  rw [queue, hcfg, hkb, count_push hh ht hf, List.range_succ, List.map_append,
    List.map_congr_left hold, List.map_singleton, hnew, queue]

/-- A pop takes the oldest character of the queue. -/
theorem queue_pop (hne : s.kb.head ≠ s.kb.tail) (hkb : t.kb = s.kb.pop s.cfg.kbufN) :
    queue s = s.kb.cells.read s.kb.tail :: queue t := by
  have hfirst : unread s 0 = s.kb.cells.read s.kb.tail := by
    rw [unread, Nat.add_zero, Nat.mod_eq_of_lt ht]
  have hrest : unread s ∘ Nat.succ = unread t := by
    funext i
    simp only [Function.comp_apply, unread, hcfg, hkb, KeyBuffer.pop, Nat.mod_add_mod]
    rw [Nat.succ_eq_add_one, Nat.add_comm i, Nat.add_assoc]
  rw [queue, count_pop hh ht hne, List.range_succ_eq_map, List.map_cons, List.map_map, hfirst,
    hrest, queue, hcfg, hkb]

end

/-- An empty buffer holds no character. -/
theorem queue_eq_nil {s : State} (h : s.kb.head = s.kb.tail) : queue s = [] := by
  simp [queue, KeyBuffer.count, h]

/-! ### The operations on the queue -/

/-- READ_CHAR's TEST step on the queue (rule R161): the oldest character is taken and reported, or
the queue is found empty. -/
theorem testStep_queue {s : State} (hh : s.kb.head < s.cfg.kbufN) (ht : s.kb.tail < s.cfg.kbufN) :
    ∃ t, testStep s = .next t ∧
      match queue s with
      | [] => queue t = [] ∧ t.trace = s.trace ∧ t.conState = .preHlt
      | ch :: rest => queue t = rest ∧ t.trace = s.trace ++ [.read ch] ∧ t.conState = .ready := by
  rcases testStep_cases s with ⟨hempty, he⟩ | ⟨hne, -, he⟩ | ⟨-, hout, -⟩
  · refine ⟨_, he, ?_⟩
    rw [queue_eq_nil hempty]
    exact ⟨queue_eq_nil hempty, rfl, rfl⟩
  · obtain ⟨t, he, hcfg, hkb, htrace, hcon⟩ : ∃ t, testStep s = .next t ∧ t.cfg = s.cfg ∧
        t.kb = s.kb.pop s.cfg.kbufN ∧ t.trace = s.trace ++ [.read (s.kb.cells.read s.kb.tail)] ∧
        t.conState = .ready := ⟨_, he, rfl, rfl, rfl, rfl⟩
    refine ⟨t, he, ?_⟩
    rw [queue_pop hcfg hh ht hne hkb]
    exact ⟨rfl, htrace, hcon⟩
  · omega

theorem execConReadChar_test {s : State} (hm : s.mode = .idle)
    (hc : s.conState = .ready ∨ s.conState = .retry) : exec .conReadChar s = testStep s := by
  rcases hc with hc | hc <;> simp [execConReadChar, hm, hc]

/-- Settles O25: Enqueue pushes and READ_CHAR pops, and `full` is `KBUF_N - 1` held. -/
theorem keyBufferIsABoundedFifo : Obligations.KeyBufferIsABoundedFifo := by
  intro s _ hwf hh ht
  refine ⟨?_, fun ch => ?_, fun hm hc => ?_⟩
  · have hlt := count_lt ht
    rw [queue_length]
    omega
  · rw [queue_length]
    rcases enqueue_cases ch s with ⟨hf, he⟩ | ⟨hf, -, he⟩ | ⟨-, hout, -⟩
    · rw [if_pos ((full_iff hh ht).mp hf)]
      exact he
    · have hroom : s.kb.count s.cfg.kbufN ≠ s.cfg.kbufN - 1 := by
        rw [Ne, ← full_iff hh ht, hf]
        decide
      rw [if_neg hroom]
      exact ⟨_, he, queue_push (by rfl) hh ht hwf hf (by rfl)⟩
    · omega
  · rw [execConReadChar_test hm hc]
    exact testStep_queue hh ht

end Sys2Proof.Machine

/-! PROOFS. The invariants of 10_state.md rules R33 and R41 hold at reset and are kept by every step,
and no step faults under them. -/

namespace Sys2Proof.Machine

/-! ### The fetch -/

/-- Settles O9: `fetch` on each list of offers. -/
theorem stepRunsTheDecodedOperation : Obligations.StepRunsTheDecodedOperation := by
  refine ⟨fun s o rest hok hin => ?_, fun s hok hin => ?_, fun s hbad => ?_⟩
  · simp [step, fetch, hok, hin]
  · simp [step, fetch, hok, hin]
  · simp [step, hbad]

theorem routeInstr_format (r : Route) (v : Byte) (err cr2 : Option Word32) :
    (r.instr v err cr2).format = .vec8 := by
  cases r <;> rfl

theorem decodeCon2_format (op : BitVec 2) : (decodeCon2 op).format = .con2 := by
  unfold decodeCon2
  split_ifs <;> rfl

/-- An offer is a dispatch request or a consumer command (rule R70). -/
theorem offer_format (c : Cfg) (o : Offer) :
    (decode c o.word).format = .vec8 ∨ (decode c o.word).format = .con2 := by
  cases o with
  | int v err cr2 => exact .inl (routeInstr_format _ _ _ _)
  | con op => exact .inr (decodeCon2_format op)

/-- A property of states is kept by every step when it does not look at the offers and every dispatch
and every consumer command keeps it. -/
theorem step_keeps {P : State → Prop}
    (hoffers : ∀ s a, P s → P { s with agents := a })
    (hdispatch : ∀ i s t, i.format = .vec8 → P s → exec i s = .next t → P t)
    (hconsumer : ∀ i s t, i.format = .con2 → P s → exec i s = .next t → P t)
    {s t : State} (hs : P s) (h : step s = .next t) : P t := by
  obtain ⟨-, rfl | ⟨o, rest, -, he⟩⟩ := step_eq_next h
  · exact hs
  · rcases offer_format s.cfg o with hf | hf
    · exact hdispatch _ _ _ hf (hoffers s _ hs) he
    · exact hconsumer _ _ _ hf (hoffers s _ hs) he

/-! ### The register invariant -/

section
variable {s : State} (h : RegistersOk s)
include h

theorem RegistersOk.cursorOk : CursorOk s.cfg s.cursor := ⟨h.x, h.y, h.saved⟩

theorem RegistersOk.next_slot (a : Nat) : (a + 1) % s.cfg.kbufN < s.cfg.kbufN :=
  Nat.mod_lt _ (Nat.zero_lt_of_lt h.head)

/-- The invariant after a change of the parts it speaks of, but for the configuration. -/
theorem RegistersOk.after {t : State} (hcfg : t.cfg = s.cfg) (hphase : t.mouse.phase ≠ 3)
    (hhead : t.kb.head < s.cfg.kbufN) (htail : t.kb.tail < s.cfg.kbufN)
    (hcursor : CursorOk s.cfg t.cursor) (hmode : t.mode ≠ .handling)
    (hhalted : t.haltReason ≠ none ↔ t.mode = .halted) : RegistersOk t := by
  rw [← hcfg] at hhead htail hcursor
  exact ⟨hcfg ▸ h.config, hmode, hphase, hhead, htail, hcursor.x, hcursor.y, hcursor.saved, hhalted⟩

theorem RegistersOk.with_agents (a : Agents) : RegistersOk { s with agents := a } :=
  h.after rfl h.phase h.head h.tail h.cursorOk h.notHandling h.halted

/-- A dispatch keeps the register invariant: a returned one leaves IDLE with no halt reason, a
handled exception HALTED with one. -/
theorem RegistersOk.dispatch {i : Instr} {t : State} (hf : i.format = .vec8)
    (he : exec i s = .next t) : RegistersOk t := by
  rcases dispatch_outcome hf he with
    rfl | ⟨f, hwhere, -⟩ | ⟨-, v, err, kind, info, rfl⟩ | ⟨hm, hserv⟩
  · exact h
  · exact absurd hwhere (not_or.mpr ⟨h.notHandling, h.phase⟩)
  · exact h.after rfl h.phase h.head h.tail h.cursorOk (by simp) (by simp)
  · have hhead : t.kb.head < s.cfg.kbufN := by
      rcases hserv.buffer with hkb | ⟨ch, -, -, hkb⟩ <;> rw [hkb]
      · exact h.head
      · exact h.next_slot _
    obtain ⟨-, -, -, htail, -⟩ := dispatchFrame i s t hf he
    have hmode : t.mode = .idle := by rw [hserv.frame]
    have hreason : t.haltReason = s.haltReason := by rw [hserv.frame]
    refine h.after (dispatch_cfg hf he) (hserv.phase h.phase) hhead (htail ▸ h.tail)
      (hserv.cursor h.config h.cursorOk) (by rw [hmode]; decide) ?_
    rw [hmode, hreason, h.halted, hm]

/-- A consumer command keeps the register invariant: of what it speaks of, only `tail` changes. -/
theorem RegistersOk.consumer {i : Instr} {t : State} (hf : i.format = .con2)
    (he : exec i s = .next t) : RegistersOk t := by
  have hslots : t.kb.head < s.cfg.kbufN ∧ t.kb.tail < s.cfg.kbufN := by
    rcases consumer_kb hf he with hkb | ⟨-, hkb⟩ <;> rw [hkb]
    · exact ⟨h.head, h.tail⟩
    · exact ⟨h.head, h.next_slot _⟩
  rw [(consumerOperationsFrame i s t hf he).1]
  exact h.after rfl h.phase hslots.1 hslots.2 h.cursorOk h.notHandling h.halted

end

/-- Settles O10: dispatches and consumer commands keep the invariant. -/
theorem everyStepKeepsTheRegisterInvariant : Obligations.EveryStepKeepsTheRegisterInvariant :=
  fun _ _ => step_keeps (fun _ a h => h.with_agents a) (fun _ _ _ hf h => h.dispatch hf)
    (fun _ _ _ hf h => h.consumer hf)

/-! ### The key buffer's invariant -/

/-- Every unread slot holds a character that is not null: a fact about the queue. -/
theorem written_iff {s : State} :
    (∀ i, i < s.kb.count s.cfg.kbufN → unread s i ≠ 0) ↔ ∀ ch ∈ queue s, ch ≠ 0 := by
  simp [queue]

theorem KeyBufferOk.of_kb_eq {s t : State} (h : KeyBufferOk s) (hcfg : t.cfg = s.cfg)
    (hkb : t.kb = s.kb) : KeyBufferOk t := by
  refine ⟨hkb ▸ h.canonical, by rw [hkb, hcfg]; exact h.slots, written_iff.mpr ?_⟩
  rw [queue_congr hcfg hkb]
  exact written_iff.mp h.written

/-- Pushing a character that is not null keeps the invariant. -/
theorem KeyBufferOk.push {s t : State} (h : KeyBufferOk s) (hr : RegistersOk s)
    (hcfg : t.cfg = s.cfg) {ch : Byte} (hch : ch ≠ 0) (hf : s.kb.full s.cfg.kbufN = false)
    (hkb : t.kb = s.kb.push s.cfg.kbufN ch) : KeyBufferOk t := by
  refine ⟨?_, ?_, written_iff.mpr ?_⟩
  · rw [hkb]
    exact memory_write_wf h.canonical _ _
  · rw [hkb, hcfg]
    exact memory_write_below h.slots hr.head _
  · rw [queue_push hcfg hr.head hr.tail h.canonical hf hkb]
    exact List.forall_mem_append.mpr ⟨written_iff.mp h.written, List.forall_mem_singleton.mpr hch⟩

/-- Taking the oldest character keeps the invariant. -/
theorem KeyBufferOk.pop {s t : State} (h : KeyBufferOk s) (hr : RegistersOk s)
    (hcfg : t.cfg = s.cfg) (hne : s.kb.head ≠ s.kb.tail) (hkb : t.kb = s.kb.pop s.cfg.kbufN) :
    KeyBufferOk t := by
  have hwritten := written_iff.mp h.written
  rw [queue_pop hcfg hr.head hr.tail hne hkb] at hwritten
  refine ⟨?_, ?_, written_iff.mpr (List.forall_mem_cons.mp hwritten).2⟩
  · rw [hkb]
    exact h.canonical
  · rw [hkb, hcfg]
    exact h.slots

theorem KeyBufferOk.dispatch {i : Instr} {s t : State} (h : KeyBufferOk s) (hr : RegistersOk s)
    (hf : i.format = .vec8) (he : exec i s = .next t) : KeyBufferOk t := by
  rcases dispatch_outcome hf he with
    rfl | ⟨f, -, rfl⟩ | ⟨-, v, err, kind, info, rfl⟩ | ⟨-, hserv⟩
  · exact h
  · exact h.of_kb_eq rfl rfl
  · exact h.of_kb_eq rfl rfl
  · rcases hserv.buffer with hkb | ⟨ch, hch, hroom, hkb⟩
    · exact h.of_kb_eq (dispatch_cfg hf he) hkb
    · exact h.push hr (dispatch_cfg hf he) hch hroom hkb

theorem KeyBufferOk.consumer {i : Instr} {s t : State} (h : KeyBufferOk s) (hr : RegistersOk s)
    (hf : i.format = .con2) (he : exec i s = .next t) : KeyBufferOk t := by
  have hcfg := noOperationWritesTheConfiguration i s t he
  rcases consumer_kb hf he with hkb | ⟨hne, hkb⟩
  · exact h.of_kb_eq hcfg hkb
  · exact h.pop hr hcfg hne hkb

/-- Settles O11: with the indices in range, a dispatch at most pushes a character and a consumer
command at most takes one. -/
theorem everyStepKeepsTheKeyBuffer : Obligations.EveryStepKeepsTheKeyBuffer := by
  intro s t hr h hstep
  have hboth : RegistersOk t ∧ KeyBufferOk t :=
    step_keeps (P := fun s => RegistersOk s ∧ KeyBufferOk s)
      (fun _ a h => ⟨h.1.with_agents a, h.2.of_kb_eq rfl rfl⟩)
      (fun _ _ _ hf h he => ⟨h.1.dispatch hf he, h.2.dispatch h.1 hf he⟩)
      (fun _ _ _ hf h he => ⟨h.1.consumer hf he, h.2.consumer h.1 hf he⟩) ⟨hr, h⟩ hstep
  exact hboth.2

/-! ### Reset -/

theorem registersOk_init {c : Cfg} (hc : c.ok = true) : RegistersOk (State.init c) := by
  obtain ⟨hn, -, hw, hh⟩ := ok_sizes hc
  have hslot : 0 < c.kbufN := by omega
  have hx : (0 : Int) ≤ (c.width / 2 : Nat) ∧ ((c.width / 2 : Nat) : Int) < c.width := by omega
  have hy : (0 : Int) ≤ (c.height / 2 : Nat) ∧ ((c.height / 2 : Nat) : Int) < c.height := by omega
  exact ⟨hc, by simp [State.init], by simp [State.init], hslot, hslot, hx, hy,
    by simp [State.init], by simp [State.init]⟩

theorem keyBufferOk_init (c : Cfg) : KeyBufferOk (State.init c) := by
  refine ⟨rfl, rfl, written_iff.mpr ?_⟩
  rw [queue_eq_nil rfl]
  exact List.forall_mem_nil _

/-- Settles O8: R41's parts hold by the sizes R8 allows, and nothing is unread at reset. -/
theorem resetMeetsTheInvariants : Obligations.ResetMeetsTheInvariants :=
  have hinit : ∀ c : Cfg, c.ok = true → RegistersOk (State.init c) ∧ KeyBufferOk (State.init c) :=
    fun c hc => ⟨registersOk_init hc, keyBufferOk_init c⟩
  ⟨hinit, hinit Cfg.default (by decide)⟩

/-! ### No fault -/

/-- A saved cell under a cursor in the display is in the display (rule R58). -/
theorem CursorOk.saved_inDisplay {c : Cfg} {k : Cursor} (h : CursorOk c k)
    (hv : k.savedValid = true) : inDisplay c k.savedX k.savedY = true := by
  obtain ⟨hx, hy⟩ := h.saved hv
  simp [inDisplay, hx, hy, h.x, h.y]

/-- `MouseStep` answers a next state where the cursor and its saved cell are in the display: a
completed packet leaves them there for Redraw (rules R58, R187). -/
theorem mouseStep_runs (b : Byte) {s : State} (hok : s.cfg.ok = true)
    (hs : CursorOk s.cfg s.cursor) : ∃ t, mouseStep b s = .next t := by
  obtain ⟨-, -, hw, hh⟩ := ok_sizes hok
  unfold mouseStep
  split
  case h_4 =>
    exact ⟨_, if_pos (completePacket_inDisplay hw hh fun hv => hs.saved_inDisplay hv)⟩
  all_goals exact ⟨_, rfl⟩

theorem testStep_runs {s : State} (h : s.kb.tail < s.cfg.kbufN) : ∃ t, testStep s = .next t := by
  rcases testStep_cases s with ⟨-, he⟩ | ⟨-, -, he⟩ | ⟨-, hout, -⟩
  · exact ⟨_, he⟩
  · exact ⟨_, he⟩
  · omega

theorem whenAdmitted_ne_fault {v : Byte} {err cr2 : Option Word32} {run : State → Result} {s : State}
    {f : Fault} (h : run s ≠ .fault f) : whenAdmitted v err cr2 run s ≠ .fault f := by
  unfold whenAdmitted
  iterate 4
    split
    · exact nofun
  split
  · split <;> exact nofun
  · exact h

/-- The two routes with a device action run it to its end under the invariant (log 12). -/
theorem RegistersOk.routeRun_ne_fault {s : State} (h : RegistersOk s) (v : Byte)
    (err cr2 : Option Word32) (r : Route) (f : Fault) : routeRun v err cr2 r s ≠ .fault f := by
  cases r with
  | kbd =>
    obtain ⟨m, hm⟩ := kbdStep_runs (ps2Byte s)
      (s := portIn ps2Port (enter (s.cfg.irqBase + 1) none s)) h.head
    rw [routeRun, hm]
    exact nofun
  | mouse =>
    obtain ⟨m, hm⟩ := mouseStep_runs (ps2Byte s)
      (s := portIn ps2Port (enter (s.cfg.irqBase + 12) none s)) h.config h.cursorOk
    rw [routeRun, if_neg h.phase, hm]
    exact nofun
  | _ => exact nofun

theorem conIssue_ne_fault {run : State → Result} {s : State} {f : Fault} (h : run s ≠ .fault f) :
    conIssue run s ≠ .fault f := by
  unfold conIssue
  split
  · exact h
  · exact nofun

/-- No consumer command faults where `tail` is a slot (log 12). -/
theorem RegistersOk.consumer_ne_fault {i : Instr} {s : State} (h : RegistersOk s)
    (hf : i.format = .con2) (f : Fault) : exec i s ≠ .fault f := by
  obtain ⟨t, ht⟩ := testStep_runs h.tail
  cases i <;> cases hf
  case conHasKey =>
    rw [exec_conHasKey, execConHasKey]
    exact conIssue_ne_fault nofun
  case conArm =>
    rw [exec_conArm, execConArm]
    exact conIssue_ne_fault nofun
  case conReadChar =>
    rw [exec_conReadChar, execConReadChar, ht]
    split
    · split <;> exact nofun
    · exact nofun
  case conReserved =>
    rw [exec_conReserved, execConReserved]
    split <;> exact nofun

theorem RegistersOk.offer_ne_fault {s : State} (h : RegistersOk s) (o : Offer) (f : Fault) :
    exec (decode s.cfg o.word) s ≠ .fault f := by
  cases o with
  | int v err cr2 =>
    rw [Offer.word, exec_decode_vec8]
    exact whenAdmitted_ne_fault (h.routeRun_ne_fault v err cr2 _ f)
  | con op => exact h.consumer_ne_fault (decodeCon2_format op) f

/-- Settles O12: the oldest offer's operation does not fault, and without an offer nothing runs. -/
theorem noFaultUnderTheInvariant : Obligations.NoFaultUnderTheInvariant := by
  intro s h f hstep
  obtain ⟨hoffered, hnone, -⟩ := stepRunsTheDecodedOperation
  cases hin : s.agents.inputs with
  | nil =>
    rw [hnone s h.config hin] at hstep
    cases hstep
  | cons o rest =>
    rw [hoffered s o rest h.config hin] at hstep
    exact (h.with_agents { s.agents with inputs := rest }).offer_ne_fault o f hstep

/-! ### Commands out of turn -/

theorem conIssue_held {run : State → Result} {s : State} (h : s.mode ≠ .idle ∨ s.conState ≠ .ready) :
    conIssue run s = .next s := if_neg (not_and_or.mpr h)

/-- Settles O51: `conIssue` holds HAS_KEY and ARM, and READ_CHAR checks the mode first. -/
theorem commandsOutOfTurnAreHeld : Obligations.CommandsOutOfTurnAreHeld :=
  fun s h => ⟨(exec_conHasKey s).trans (conIssue_held h), (exec_conArm s).trans (conIssue_held h),
    fun hm => (exec_conReadChar s).trans (if_neg hm)⟩

end Sys2Proof.Machine

/-! PROOFS. Nothing the block does depends on `alt` (10_state.md rule R29): two states that differ in
`alt` alone are answered alike by every operation. -/

namespace Sys2Proof.Machine

/-! ### Answers that differ in `alt` alone -/

/-- The modifier bits with another `alt`. -/
def KMod.setAlt (k : KMod) (a : Bool) : KMod := { k with alt := a }

/-- The state with another `alt`. -/
def State.setAlt (s : State) (a : Bool) : State := { s with kmod := s.kmod.setAlt a }

/-- The same fault, the same refusal, or next states that differ in `alt` alone. -/
inductive AlikeButAlt : Result → Result → Prop
  | next (t : State) (a : Bool) : AlikeButAlt (.next t) (.next (t.setAlt a))
  | fault (e : Fault) : AlikeButAlt (.fault e) (.fault e)
  | refused (e : Refusal) : AlikeButAlt (.refused e) (.refused e)

/-- A check that does not read `alt` takes the same branch on both sides. -/
theorem alike_ite {p : Prop} {d d' : Decidable p} {r r' u u' : Result} (hthen : AlikeButAlt r u)
    (helse : AlikeButAlt r' u') : AlikeButAlt (@ite _ p d r r') (@ite _ p d' u u') := by
  by_cases hp : p
  · rwa [if_pos hp, if_pos hp]
  · rwa [if_neg hp, if_neg hp]

theorem alike_andThen {r r' : Result} {f : State → Result} (h : AlikeButAlt r r')
    (hf : ∀ t a, AlikeButAlt (f t) (f (t.setAlt a))) :
    AlikeButAlt (andThen r f) (andThen r' f) := by
  cases h with
  | next t a => exact hf t a
  | fault e => exact .fault e
  | refused e => exact .refused e

section
variable (s : State) (a : Bool)

/-! ### SC8 -/

theorem enqueue_alike (ch : Byte) : AlikeButAlt (enqueue ch s) (enqueue ch (s.setAlt a)) := by
  unfold enqueue
  exact alike_ite (.next _ a) (alike_ite (.next _ a) (.fault _))

/-- The Alt key's own operations write the same `alt` to both states; every other flag operation
leaves it, and the character of a make code does not read it (rules R131 to R133). -/
theorem keyboard_alike {i : Instr} (hf : i.format = .sc8) :
    AlikeButAlt (exec i s) (exec i (s.setAlt a)) := by
  cases i <;> cases hf
  case kbKeyMake idx =>
    change AlikeButAlt (execKbKeyMake idx s) (execKbKeyMake idx (s.setAlt a))
    have hout : keyOutput s.cfg (s.kmod.setAlt a) idx = keyOutput s.cfg s.kmod idx := rfl
    unfold execKbKeyMake
    rw [State.setAlt, hout]
    split
    · exact .next _ _
    · exact enqueue_alike _ _ _
  case kbAltMake => exact .next { s with kmod := s.kmod.pressAlt } true
  case kbAltBreak => exact .next { s with kmod := s.kmod.releaseAlt } false
  all_goals exact .next _ a

theorem kbdStep_eq_exec (sc : Byte) (s : State) :
    kbdStep sc s = exec ((sc8Row s.cfg sc).instr (scIdx sc)) s := by
  unfold kbdStep
  cases sc8Row s.cfg sc <;> rfl

theorem sc8Instr_format (r : Sc8Row) (idx : KeyIdx) : (r.instr idx).format = .sc8 := by
  cases r <;> rfl

theorem kbdStep_alike (sc : Byte) : AlikeButAlt (kbdStep sc s) (kbdStep sc (s.setAlt a)) := by
  rw [kbdStep_eq_exec, kbdStep_eq_exec]
  exact keyboard_alike s a (sc8Instr_format _ _)

/-! ### MW10 -/

theorem redraw_alike : AlikeButAlt (redraw s) (redraw (s.setAlt a)) := by
  unfold redraw
  rw [restoreCell_eq, restoreCell_eq]
  exact alike_ite (.next _ a) (.fault _)

theorem mouse_alike {i : Instr} (hf : i.format = .mw10) :
    AlikeButAlt (exec i s) (exec i (s.setAlt a)) := by
  cases i <;> cases hf
  case msByte2Complete b => exact redraw_alike (completePacket b s) a
  all_goals exact .next _ _

theorem mouseStep_eq_exec (b : Byte) (s : State) :
    mouseStep b s = exec ((mw10Row s.mouse.phase b).instr b) s := by
  unfold mouseStep
  cases mw10Row s.mouse.phase b <;> rfl

theorem mw10Instr_format (r : Mw10Row) (b : Byte) : (r.instr b).format = .mw10 := by
  cases r <;> rfl

theorem mouseStep_alike (b : Byte) : AlikeButAlt (mouseStep b s) (mouseStep b (s.setAlt a)) := by
  rw [mouseStep_eq_exec, mouseStep_eq_exec]
  exact mouse_alike s a (mw10Instr_format _ _)

/-! ### VEC8 -/

/-- Admission does not read `alt` (rule R100). -/
theorem whenAdmitted_alike {v : Byte} {err cr2 : Option Word32} {run run' : State → Result}
    (h : AlikeButAlt (run s) (run' (s.setAlt a))) :
    AlikeButAlt (whenAdmitted v err cr2 run s) (whenAdmitted v err cr2 run' (s.setAlt a)) := by
  unfold whenAdmitted
  exact alike_ite (.next s a) (alike_ite (.refused _) (alike_ite (.refused _)
    (alike_ite (.next s a) (alike_ite (alike_ite (.next s a) (.next _ a)) h))))

theorem eoiReturn_alike (irq : Nat) :
    AlikeButAlt (.next (eoiReturn irq s)) (.next (eoiReturn irq (s.setAlt a))) := by
  rw [eoiReturn_eq, eoiReturn_eq]
  exact .next _ a

/-- The two routes with a device action run the keyboard's or the mouse's step; the others write
nothing but registers and events. -/
theorem dispatch_alike {i : Instr} (hf : i.format = .vec8) :
    AlikeButAlt (exec i s) (exec i (s.setAlt a)) := by
  cases i <;> cases hf
  all_goals
    simp only [exec, execIntDe, execIntDb, execIntBp, execIntDf, execIntGp, execIntPf,
      execIntIrqTimer, execIntIrqKbd, execIntIrqMouse, execIntIrqUnhandled, execIntExcUnhandled,
      execIntAbsent]
    refine whenAdmitted_alike s a ?_
  case intIrqTimer =>
    exact eoiReturn_alike (emit .tick (enter s.cfg.irqBase none s)) a 0
  case intIrqKbd =>
    exact alike_andThen
      (kbdStep_alike (portIn ps2Port (enter (s.cfg.irqBase + 1) none s)) a (ps2Byte s))
      fun t a => eoiReturn_alike t a 1
  case intIrqMouse =>
    exact alike_ite (.next _ a) (alike_andThen
      (mouseStep_alike (portIn ps2Port (enter (s.cfg.irqBase + 12) none s)) a (ps2Byte s))
      fun t a => eoiReturn_alike t a 12)
  case intIrqUnhandled v err cr2 =>
    exact eoiReturn_alike (emit (.log v none) (enter v none s)) a _
  case intAbsent => exact .refused _
  all_goals exact .next _ a

/-! ### CON2 -/

theorem testStep_alike : AlikeButAlt (testStep s) (testStep (s.setAlt a)) := by
  unfold testStep
  exact alike_ite (.next _ a) (alike_ite (.next _ a) (.fault _))

theorem conIssue_alike {run : State → Result} (h : AlikeButAlt (run s) (run (s.setAlt a))) :
    AlikeButAlt (conIssue run s) (conIssue run (s.setAlt a)) := by
  unfold conIssue
  exact alike_ite h (.next _ a)

/-- READ_CHAR's next step is chosen by `con_state` (rule R161). -/
theorem readChar_alike :
    AlikeButAlt (execConReadChar s) (execConReadChar (s.setAlt a)) := by
  have hcon : (s.setAlt a).conState = s.conState := rfl
  unfold execConReadChar
  rw [hcon]
  refine alike_ite ?_ (.next _ a)
  cases s.conState with
  | ready => exact testStep_alike s a
  | retry => exact testStep_alike s a
  | preHlt => exact .next _ a
  | asleep => exact .next _ a

theorem consumer_alike {i : Instr} (hf : i.format = .con2) :
    AlikeButAlt (exec i s) (exec i (s.setAlt a)) := by
  cases i <;> cases hf
  case conReadChar => exact readChar_alike s a
  all_goals simp only [exec, execConHasKey, execConArm, execConReserved]
  case conReserved => exact alike_ite (.next _ a) (.refused _)
  all_goals
    refine conIssue_alike s a ?_
    exact .next _ a

/-! ### Every operation -/

theorem exec_alike (i : Instr) : AlikeButAlt (exec i s) (exec i (s.setAlt a)) := by
  rcases format_cases i with hf | hf | hf | hf
  · exact keyboard_alike s a hf
  · exact dispatch_alike s a hf
  · exact mouse_alike s a hf
  · exact consumer_alike s a hf

end

/-- Settles O57: the operations answer alike, family by family. -/
theorem altHasNoEffectOnAnythingElse : Obligations.AltHasNoEffectOnAnythingElse := by
  intro i s a
  have h : AlikeButAlt (exec i s) (exec i { s with kmod := { s.kmod with alt := a } }) :=
    exec_alike s a i
  generalize exec i s = r, exec i { s with kmod := { s.kmod with alt := a } } = r' at h
  cases h <;> rfl

end Sys2Proof.Machine

/-! PROOFS. The three classes of the vector space (20_memory.md rule R57), each from the laws of the
route function under Sys2Proof/Laws/Decode.lean. -/

namespace Sys2Proof.Machine

/-- A route has an IRQ line exactly when it is of an IRQ class (rules R77, R100). -/
theorem irqLine_routeInstr_isSome (c : Cfg) (r : Route) (v : Byte) (err cr2 : Option Word32) :
    (irqLine c (r.instr v err cr2)).isSome = r.isIrq := by
  cases r <;> rfl

/-- A handled exception vector has a gate and no IRQ route, in every configuration: its route is one
of the six that report (rules R80, R104). -/
theorem route_of_handled (c : Cfg) {v : Byte} (hv : v ∈ handledExceptions) :
    route c v ≠ .absent ∧ (route c v).isIrq = false := by
  simp only [handledExceptions, List.mem_cons, List.not_mem_nil, or_false] at hv
  rcases hv with rfl | rfl | rfl | rfl | rfl | rfl <;> exact ⟨nofun, rfl⟩

/-- Vectors 0 to 31 have a gate and no IRQ route. -/
theorem route_of_exception {c : Cfg} {v : Byte} (h : c.ok = true) (hv : v.toNat ≤ 31) :
    route c v ≠ .absent ∧ (route c v).isIrq = false := by
  by_cases hh : v ∈ handledExceptions
  · exact route_of_handled c hh
  · rw [route_excUnhandled h hv hh]
    exact ⟨nofun, rfl⟩

/-- The line of a vector in the IRQ block is its offset in the block: the three lines with a device
of their own, and the others. -/
theorem irqLine_decode_of_block {c : Cfg} {v : Byte} (h : c.ok = true)
    (hv : c.irqBase.toNat ≤ v.toNat ∧ v.toNat ≤ c.irqBase.toNat + 15)
    (err cr2 : Option Word32) :
    irqLine c (decode c (.vec8 v err cr2)) = some (v.toNat - c.irqBase.toNat) := by
  have h1 := toNat_irqBase_one h
  have h12 := toNat_irqBase_twelve h
  rw [decode]
  by_cases hv0 : v = c.irqBase
  · rw [hv0, route_timer h, Nat.sub_self]; rfl
  by_cases hv1 : v = c.irqBase + 1
  · rw [hv1, route_kbd h, h1, Nat.add_sub_cancel_left]; rfl
  by_cases hv12 : v = c.irqBase + 12
  · rw [hv12, route_mouse h, h12, Nat.add_sub_cancel_left]; rfl
  · rw [← BitVec.toNat_inj] at hv0 hv1 hv12
    rw [route_irqUnhandled h hv hv0 (h1 ▸ hv1) (h12 ▸ hv12)]; rfl

/-- Settles O6: one lemma for each class; a vector with an IRQ line has an IRQ route. -/
theorem vectorClassesPartitionTheSpace : Obligations.VectorClassesPartitionTheSpace := by
  intro c v h
  refine ⟨route_of_exception h, fun hv => ?_, fun ⟨hlow, hout⟩ => route_absent h hlow hout⟩
  have hline := irqLine_decode_of_block h hv none none
  refine ⟨?_, hline⟩
  rw [← irqLine_routeInstr_isSome c (route c v) v none none, ← decode, hline]
  rfl

end Sys2Proof.Machine

/-! PROOFS. The decoder, the encoder and the opcode table (30_encoding.md rules R70 to R82), and the
mouse movement operand (rule R76). The decoder and the encoder meet twice: what a word decodes to is
well formed and encodes to the word (`decode_sound`), and what a well-formed operation encodes to
decodes to the operation. The table lists its rows by falling number of mask bits, so its most
specific row is the first that matches (`mostSpecific_eq_find?`). -/

namespace Sys2Proof.Machine

/-! ### Decoding, then encoding -/

/-- The operation an SC8 word decodes to is well formed and encodes to the word: a modifier's row
fixes the key index, the two other rows keep it (rules R71, R79). -/
theorem sc8Row_sound (c : Cfg) (sc : Byte) :
    encode c ((sc8Row c sc).instr (scIdx sc)) = .sc8 sc ∧
      ((sc8Row c sc).instr (scIdx sc)).wf c = true := by
  cases hr : scReleased sc with
  | false =>
    have hword := makeCode_scIdx hr
    simp only [sc8Row, hr, Bool.false_eq_true, if_false]
    split_ifs with h1 h2 h3 h4 h5
    case neg => exact ⟨congrArg _ hword, plainKey_iff.mpr ⟨h1, h2, h3, h4, h5⟩⟩
    all_goals exact ⟨congrArg _ (‹scIdx sc = _› ▸ hword), rfl⟩
  | true =>
    have hword := breakCode_scIdx hr
    simp only [sc8Row, hr, if_true]
    split_ifs with h1 h2 h3 h4 h5
    case neg => exact ⟨congrArg _ hword, plainKey_iff.mpr ⟨h1, h2, h3, h4, h5⟩⟩
    all_goals exact ⟨congrArg _ (‹scIdx sc = _› ▸ hword), rfl⟩

/-- The vectors of a route: the one vector of a route of its own, the operands the row admits of the
three others (rules R80, R104, R114 to R116). -/
def RouteVectors (c : Cfg) (v : Byte) : Route → Prop
  | .de => v = 0
  | .db => v = 1
  | .bp => v = 3
  | .df => v = 8
  | .gp => v = 13
  | .pf => v = 14
  | .timer => v = c.irqBase
  | .kbd => v = c.irqBase + 1
  | .mouse => v = c.irqBase + 12
  | .irqUnhandled => (Instr.intIrqUnhandled v none none).wf c = true
  | .excUnhandled => (Instr.intExcUnhandled v none none).wf c = true
  | .absent => (Instr.intAbsent v none none).wf c = true

/-- Every vector is one of its route's, in every configuration (rule R104). -/
theorem route_vectors (c : Cfg) (v : Byte) : RouteVectors c v (route c v) := by
  unfold route
  refine iteInduction (fun h => BitVec.eq_of_toNat_eq h) fun h0 => ?_
  refine iteInduction (fun h => BitVec.eq_of_toNat_eq h) fun h1 => ?_
  refine iteInduction (fun h => BitVec.eq_of_toNat_eq h) fun h3 => ?_
  refine iteInduction (fun h => BitVec.eq_of_toNat_eq h) fun h8 => ?_
  refine iteInduction (fun h => BitVec.eq_of_toNat_eq h) fun h13 => ?_
  refine iteInduction (fun h => BitVec.eq_of_toNat_eq h) fun h14 => ?_
  refine iteInduction (fun h => BitVec.eq_of_toNat_eq h) fun htimer => ?_
  refine iteInduction (fun h => eq_add_one h) fun hkbd => ?_
  refine iteInduction (fun h => eq_add_twelve h) fun hmouse => ?_
  refine iteInduction (fun hirq => ?_) fun hirq => iteInduction (fun hexc => ?_) fun hexc => ?_
  · simp [RouteVectors, Instr.wf, Cfg.irqVector, hirq, htimer, hkbd, hmouse]
  · simp [RouteVectors, Instr.wf, hexc, not_handled_iff.mpr ⟨h0, h1, h3, h8, h13, h14⟩]
  · simp only [RouteVectors, Instr.wf, Cfg.irqVector, ← Bool.decide_and, ← decide_not,
      decide_eq_true_eq]
    exact ⟨Nat.lt_of_not_le hexc, hirq⟩

/-- The operation of a vector's route is well formed and encodes to the vector with its side values
(rules R72, R80). -/
theorem route_sound (c : Cfg) (v : Byte) (err cr2 : Option Word32) :
    encode c ((route c v).instr v err cr2) = .vec8 v err cr2 ∧
      ((route c v).instr v err cr2).wf c = true := by
  have hv := route_vectors c v
  generalize route c v = r at hv
  cases r
  case irqUnhandled | excUnhandled | absent => exact ⟨rfl, hv⟩
  all_goals cases hv; exact ⟨rfl, rfl⟩

/-- The operation an MW10 word decodes to is well formed and encodes to the word: its row fixes the
phase and, at phase 0, the marker bit (rules R73, R81). -/
theorem mw10Row_sound (c : Cfg) (w : BitVec 10) :
    encode c ((mw10Row (mwPhase w) (mwByte w)).instr (mwByte w)) = .mw10 w ∧
      ((mw10Row (mwPhase w) (mwByte w)).instr (mwByte w)).wf c = true := by
  have hword : ∀ ph, mwPhase w = ph → InputWord.mw10 (mouseWord ph (mwByte w)) = .mw10 w := by
    rintro ph rfl
    rw [mouseWord_fields]
  unfold mw10Row
  split_ifs with h0 hmark h1 h2
  · exact ⟨hword 0 h0, hmark⟩
  · exact ⟨hword 0 h0, by simpa [Mw10Row.instr, Instr.wf] using hmark⟩
  · exact ⟨hword 1 h1, rfl⟩
  · exact ⟨hword 2 h2, rfl⟩
  · exact ⟨hword 3 (by bv_omega), rfl⟩

theorem decodeCon2_sound (c : Cfg) (op : BitVec 2) :
    encode c (decodeCon2 op) = .con2 op ∧ (decodeCon2 op).wf c = true := by
  fin_cases op <;> exact ⟨rfl, rfl⟩

/-- Every word decodes to a well-formed operation that encodes to the word. -/
theorem decode_sound (c : Cfg) (w : InputWord) :
    encode c (decode c w) = w ∧ (decode c w).wf c = true := by
  cases w with
  | sc8 sc => exact sc8Row_sound c sc
  | vec8 v err cr2 => exact route_sound c v err cr2
  | mw10 w => exact mw10Row_sound c w
  | con2 op => exact decodeCon2_sound c op

theorem decode_format (c : Cfg) (w : InputWord) : (decode c w).format = w.format := by
  cases w with
  | sc8 sc => exact sc8Instr_format _ _
  | vec8 v err cr2 => exact routeInstr_format _ _ _ _
  | mw10 w => exact mw10Instr_format _ _
  | con2 op => exact decodeCon2_format op

/-- Settles O2: the encoder's half of `decode_sound`. -/
theorem encodeOfDecodeIsTheWord : Obligations.EncodeOfDecodeIsTheWord :=
  fun c w => (decode_sound c w).1

/-- Settles O3: the other half of `decode_sound`, with the format. -/
theorem decodedOperationIsWellFormed : Obligations.DecodedOperationIsWellFormed :=
  fun c w => ⟨(decode_sound c w).2, decode_format c w⟩

/-! ### Encoding, then decoding -/

section
variable {c : Cfg} {i : Instr}

/-- The five modifier indices are distinct (rule R8), and a plain key has none of them (rules R148,
R149), so each code reaches its own row of the SC8 map. -/
theorem decode_encode_sc8 (h : c.ok = true) (hf : i.format = .sc8) (hw : i.wf c = true) :
    decode c (encode c i) = i := by
  have hne := ok_modifiers h
  simp only [Cfg.modifiers, List.nodup_cons, List.mem_cons, List.not_mem_nil, or_false,
    not_or] at hne
  cases i <;> cases hf
  case kbKeyMake idx =>
    simp [encode, decode, sc8Row, Sc8Row.instr, plainKey_iff.mp hw]
  case kbKeyBreak idx =>
    simp [encode, decode, sc8Row, Sc8Row.instr, plainKey_iff.mp hw]
  all_goals simp [encode, decode, sc8Row, Sc8Row.instr, hne, eq_comm]

/-- The six handled exceptions have fixed vectors; the other routes have a law each. -/
theorem decode_encode_vec8 (h : c.ok = true) (hf : i.format = .vec8) (hw : i.wf c = true) :
    decode c (encode c i) = i := by
  cases i <;> cases hf
  case intIrqTimer err cr2 => rw [encode, decode, route_timer h]; rfl
  case intIrqKbd err cr2 => rw [encode, decode, route_kbd h]; rfl
  case intIrqMouse err cr2 => rw [encode, decode, route_mouse h]; rfl
  case intIrqUnhandled v err cr2 =>
    simp only [Instr.wf, Cfg.irqVector, Bool.and_eq_true, decide_eq_true_eq] at hw
    obtain ⟨⟨⟨hblock, h0⟩, h1⟩, h12⟩ := hw
    rw [encode, decode, route_irqUnhandled h hblock h0 h1 h12]; rfl
  case intExcUnhandled v err cr2 =>
    simp only [Instr.wf, Bool.and_eq_true, decide_eq_true_eq, Bool.not_eq_true',
      List.contains_eq_mem, decide_eq_false_iff_not] at hw
    obtain ⟨hexc, hother⟩ := hw
    rw [encode, decode, route_excUnhandled h hexc hother]; rfl
  case intAbsent v err cr2 =>
    simp only [Instr.wf, Cfg.irqVector, ← Bool.decide_and, ← decide_not, decide_eq_true_eq] at hw
    obtain ⟨hhigh, hout⟩ := hw
    rw [encode, decode, route_absent h hhigh hout]; rfl
  all_goals rfl

/-- The phase tells three of the rows apart, and the marker bit the two of phase 0. -/
theorem decode_encode_mw10 (hf : i.format = .mw10) (hw : i.wf c = true) :
    decode c (encode c i) = i := by
  cases i <;> cases hf <;>
    simp only [encode, decode, mwPhase_mouseWord, mwByte_mouseWord]
  case msSyncAccept b =>
    rw [mw10Row, if_pos rfl, if_pos (show b.getLsbD 3 = true from hw)]; rfl
  case msSyncDiscard b =>
    rw [mw10Row, if_pos rfl, if_neg (by simpa [Instr.wf] using hw)]; rfl
  all_goals rfl

theorem decode_encode_con2 (hf : i.format = .con2) : decode c (encode c i) = i := by
  cases i <;> cases hf <;> rfl

end

/-- Settles O1: one lemma for each of the four formats. -/
theorem decodeOfEncodeIsTheOperation : Obligations.DecodeOfEncodeIsTheOperation := by
  intro c i h hw
  rcases format_cases i with hf | hf | hf | hf
  · exact decode_encode_sc8 h hf hw
  · exact decode_encode_vec8 h hf hw
  · exact decode_encode_mw10 hf hw
  · exact decode_encode_con2 hf

/-! ### The opcode table's first match -/

/-- Where no later row has more mask bits, the most specific row is the first that matches (rule
R78, step 3). -/
theorem mostSpecific_eq_find? {rs : List Row}
    (h : rs.Pairwise fun r q => maskOnes q.mask ≤ maskOnes r.mask) (w : BitVec 10) :
    mostSpecific rs w = rs.find? (·.hits w) := by
  induction rs with
  | nil => rfl
  | cons r rs ih =>
    obtain ⟨hr, hrs⟩ := List.pairwise_cons.mp h
    cases hit : r.hits w with
    | false => rw [mostSpecific_skip hit, ih hrs, List.find?_cons, hit]
    | true => rw [mostSpecific_take hit hr, List.find?_cons, hit]

/-- The masks of a format's rows, the same in every configuration. -/
def tableMasks : Format → List (BitVec 10)
  | .sc8 => List.replicate 10 0xFF ++ [0x80, 0x80]
  | .vec8 => List.replicate 9 0xFF ++ [0xF0, 0xE0, 0x00]
  | .mw10 => [0x308, 0x308, 0x300, 0x300, 0x300]
  | .con2 => List.replicate 4 0x3

theorem tableRows_masks (c : Cfg) (f : Format) : (tableRows c f).map Row.mask = tableMasks f := by
  cases f <;> rfl

/-- The table lists the rows of each format by falling number of mask bits. -/
theorem tableRows_sorted (c : Cfg) (f : Format) :
    (tableRows c f).Pairwise fun r q => maskOnes q.mask ≤ maskOnes r.mask := by
  rw [← List.pairwise_map (f := Row.mask) (R := fun m n => maskOnes n ≤ maskOnes m),
    tableRows_masks]
  cases f <;> decide

/-- The first match, one row of the list at a time. -/
theorem find?_hits_cons (r : Row) (rs : List Row) (w : BitVec 10) :
    ((r :: rs).find? (·.hits w)).map Row.id =
      if r.hits w then some r.id else (rs.find? (·.hits w)).map Row.id := by
  rw [List.find?_cons]
  cases r.hits w <;> rfl

/-! ### The rows of eight bits -/

/-- A mask that keeps a byte's bits from one position up compares the byte rounded down. -/
theorem hits_block {mask : BitVec 10} {n : Nat}
    (hmask : ∀ v : Byte, (v.setWidth 10 &&& mask).toNat = v.toNat / n * n)
    (r : RowId) (pat : BitVec 10) (v : Byte) :
    Row.hits ⟨r, pat, mask⟩ (v.setWidth 10) = decide (v.toNat / n * n = pat.toNat) := by
  rw [Row.hits, Bool.eq_iff_iff, beq_iff_eq, decide_eq_true_iff, ← hmask, BitVec.toNat_inj]

theorem hits_mask_FF (r : RowId) (pat : BitVec 10) (v : Byte) :
    Row.hits ⟨r, pat, 0xFF⟩ (v.setWidth 10) = decide (v.toNat = pat.toNat) := by
  simpa using hits_block (n := 1) (by decide) r pat v

theorem hits_mask_F0 (r : RowId) (pat : BitVec 10) (v : Byte) :
    Row.hits ⟨r, pat, 0xF0⟩ (v.setWidth 10) = decide (v.toNat / 16 * 16 = pat.toNat) :=
  hits_block (by decide) r pat v

theorem hits_mask_E0 (r : RowId) (pat : BitVec 10) (v : Byte) :
    Row.hits ⟨r, pat, 0xE0⟩ (v.setWidth 10) = decide (v.toNat / 32 * 32 = pat.toNat) :=
  hits_block (by decide) r pat v

theorem hits_mask_00 (r : RowId) (w : BitVec 10) : Row.hits ⟨r, 0x00, 0x00⟩ w = true := by
  simp [Row.hits]

/-- The modifier rows match their one code (rule R79). -/
theorem hits_code (r : RowId) (code sc : Byte) :
    Row.hits ⟨r, code.setWidth 10, 0xFF⟩ (sc.setWidth 10) = decide (sc = code) := by
  rw [hits_mask_FF, BitVec.toNat_setWidth_of_le (by decide)]
  exact decide_eq_decide.mpr BitVec.toNat_inj

theorem hits_keyMake (r : RowId) (sc : Byte) :
    Row.hits ⟨r, 0x00, 0x80⟩ (sc.setWidth 10) = !scReleased sc := by
  revert sc
  simp only [Row.hits]
  decide

theorem hits_keyBreak (r : RowId) (sc : Byte) :
    Row.hits ⟨r, 0x80, 0x80⟩ (sc.setWidth 10) = scReleased sc := by
  revert sc
  simp only [Row.hits]
  decide

theorem eq_makeCode_iff {sc : Byte} {idx : KeyIdx} :
    sc = makeCode idx ↔ scReleased sc = false ∧ scIdx sc = idx :=
  ⟨by rintro rfl; simp, fun ⟨hr, hidx⟩ => hidx ▸ (makeCode_scIdx hr).symm⟩

theorem eq_breakCode_iff {sc : Byte} {idx : KeyIdx} :
    sc = breakCode idx ↔ scReleased sc = true ∧ scIdx sc = idx :=
  ⟨by rintro rfl; simp, fun ⟨hr, hidx⟩ => hidx ▸ (breakCode_scIdx hr).symm⟩

/-- The first matching SC8 row is the row of the SC8 map, in every configuration (rule R79). -/
theorem find?_sc8Rows (c : Cfg) (sc : Byte) :
    ((sc8Rows c).find? (·.hits (sc.setWidth 10))).map Row.id = some (.sc8 (sc8Row c sc)) := by
  simp only [sc8Rows, find?_hits_cons, hits_code, hits_keyMake, hits_keyBreak, eq_makeCode_iff,
    eq_breakCode_iff, decide_eq_true_iff, sc8Row, apply_ite RowId.sc8, apply_ite some]
  cases scReleased sc <;> simp

/-- The first matching VEC8 row is the route: an aligned base puts the IRQ block in one block of 16
vectors, as the mask of its row needs (rules R78, R80). -/
theorem find?_vec8Rows {c : Cfg} (h : c.ok = true) (h16 : c.irqBase.toNat % 16 = 0) (v : Byte) :
    ((vec8Rows c).find? (·.hits (v.setWidth 10))).map Row.id = some (.vec8 (route c v)) := by
  have hbase := ok_irqBase h
  have htimer : (0x20 + (c.irqBase.setWidth 10 - 0x20) : BitVec 10).toNat = c.irqBase.toNat := by
    bv_omega
  have hkbd : (0x21 + (c.irqBase.setWidth 10 - 0x20) : BitVec 10).toNat =
      c.irqBase.toNat + 1 := by bv_omega
  have hmouse : (0x2C + (c.irqBase.setWidth 10 - 0x20) : BitVec 10).toNat =
      c.irqBase.toNat + 12 := by bv_omega
  have hirq : v.toNat / 16 * 16 = c.irqBase.toNat ↔
      c.irqBase.toNat ≤ v.toNat ∧ v.toNat ≤ c.irqBase.toNat + 15 := by omega
  have hexc : v.toNat / 32 * 32 = (0x00 : BitVec 10).toNat ↔ v.toNat ≤ 31 := by
    show v.toNat / 32 * 32 = 0 ↔ _
    omega
  simp only [vec8Rows, find?_hits_cons, hits_mask_FF, hits_mask_F0, hits_mask_E0, hits_mask_00,
    htimer, hkbd, hmouse, hirq, hexc, decide_eq_true_iff, if_true, route, apply_ite RowId.vec8,
    apply_ite some]
  rfl

/-! ### The rows of ten bits and of two -/

theorem mouseWord_inj {p q : BitVec 2} {b d : Byte} :
    mouseWord p b = mouseWord q d ↔ p = q ∧ b = d := by
  refine ⟨fun h => ⟨?_, ?_⟩, by rintro ⟨rfl, rfl⟩; rfl⟩
  · simpa using congrArg mwPhase h
  · simpa using congrArg mwByte h

/-- An MW10 row compares the phase and the byte, each with its part of the mask (rule R73). -/
theorem hits_mouseWord (r : RowId) (p m ph : BitVec 2) (d n b : Byte) :
    Row.hits ⟨r, mouseWord p d, mouseWord m n⟩ (mouseWord ph b) =
      decide (ph &&& m = p ∧ b &&& n = d) := by
  have hand : mouseWord ph b &&& mouseWord m n = mouseWord (ph &&& m) (b &&& n) :=
    BitVec.and_append
  rw [Row.hits, Bool.eq_iff_iff, beq_iff_eq, decide_eq_true_iff, hand, mouseWord_inj]

/-- The MW10 rows by their two fields. -/
theorem mw10Rows_eq : mw10Rows =
    [⟨.mw10 .syncAccept, mouseWord 0 0x08, mouseWord 3 0x08⟩,
     ⟨.mw10 .syncDiscard, mouseWord 0 0x00, mouseWord 3 0x08⟩,
     ⟨.mw10 .byte1, mouseWord 1 0x00, mouseWord 3 0x00⟩,
     ⟨.mw10 .byte2Complete, mouseWord 2 0x00, mouseWord 3 0x00⟩,
     ⟨.mw10 .phase3, mouseWord 3 0x00, mouseWord 3 0x00⟩] := rfl

theorem marker_set_iff (b : Byte) : b &&& 0x08 = 0x08 ↔ b.getLsbD 3 = true := by
  revert b; decide

theorem marker_clear_iff (b : Byte) : b &&& 0x08 = 0x00 ↔ b.getLsbD 3 = false := by
  revert b; decide

/-- The first matching MW10 row is the row of the MW10 map (rule R81). -/
theorem find?_mw10Rows (w : BitVec 10) :
    (mw10Rows.find? (·.hits w)).map Row.id = some (.mw10 (mw10Row (mwPhase w) (mwByte w))) := by
  obtain ⟨ph, b, rfl⟩ : ∃ ph b, w = mouseWord ph b := ⟨_, _, (mouseWord_fields w).symm⟩
  have hphase : ph &&& 3 = ph := BitVec.and_allOnes
  have hbyte : b &&& 0x00 = 0x00 := BitVec.and_zero
  simp only [mw10Rows_eq, find?_hits_cons, hits_mouseWord, hphase, hbyte, marker_set_iff,
    marker_clear_iff, decide_eq_true_iff, mwPhase_mouseWord, mwByte_mouseWord]
  unfold mw10Row
  fin_cases ph <;> cases b.getLsbD 3 <;> rfl

/-- The first matching CON2 row is the command's (rule R82). -/
theorem find?_con2Rows (op : BitVec 2) :
    (con2Rows.find? (·.hits (op.setWidth 10))).map Row.id = some (.con2 op) := by
  fin_cases op <;> rfl

/-! ### The decoded operation's row -/

theorem sc8Instr_row (r : Sc8Row) (idx : KeyIdx) : (r.instr idx).row = .sc8 r := by
  cases r <;> rfl

theorem routeInstr_row (r : Route) (v : Byte) (err cr2 : Option Word32) :
    (r.instr v err cr2).row = .vec8 r := by
  cases r <;> rfl

theorem mw10Instr_row (r : Mw10Row) (b : Byte) : (r.instr b).row = .mw10 r := by
  cases r <;> rfl

theorem decodeCon2_row (op : BitVec 2) : (decodeCon2 op).row = .con2 op := by
  fin_cases op <;> rfl

/-- Settles O4: the most specific row is the first match, which is the decoder's row in each
format. -/
theorem decoderPicksTheMostSpecificRow : Obligations.DecoderPicksTheMostSpecificRow := by
  intro c w h h16
  rw [mostSpecific_eq_find? (tableRows_sorted c w.format)]
  cases w with
  | sc8 sc => rw [decode, sc8Instr_row]; exact find?_sc8Rows c sc
  | vec8 v err cr2 => rw [decode, routeInstr_row]; exact find?_vec8Rows h h16 v
  | mw10 w => rw [decode, mw10Instr_row]; exact find?_mw10Rows w
  | con2 op => rw [decode, decodeCon2_row]; exact find?_con2Rows op

/-- Settles O5: each word is decoded by evaluation. -/
theorem writtenOutWordsDecode : Obligations.WrittenOutWordsDecode := by
  unfold Obligations.WrittenOutWordsDecode
  decide

/-! ### The movement operand -/

/-- For a byte that is not 0 the sign bit stands for -256, as in two's complement (rule R76). -/
theorem mv_eq_toInt {m : Byte} (h : m ≠ 0) (sg : Bool) :
    mv m sg = (BitVec.ofBool sg ++ m).toInt := by
  have hpos : 0 < m.toNat := Nat.pos_of_ne_zero fun h0 => h (BitVec.eq_of_toNat_eq h0)
  rw [BitVec.toInt_append, if_neg (by decide)]
  cases sg with
  | false =>
    have hsign : (BitVec.ofBool false).toInt = 0 := rfl
    rw [mv, if_neg (by simp), hsign]
    omega
  | true =>
    have hsign : (BitVec.ofBool true).toInt = -1 := rfl
    rw [mv, if_pos ⟨rfl, hpos⟩, hsign]
    omega

theorem mv_zero (sg : Bool) : mv 0 sg = 0 := by
  cases sg <;> rfl

/-- Settles O44: the sign extension is `mv_eq_toInt`, the rest are the definitions. -/
theorem movementIsNineBitExceptZero : Obligations.MovementIsNineBitExceptZero :=
  ⟨fun _ sg h => mv_eq_toInt h sg, mv_zero, fun _ _ => rfl, fun _ _ => ⟨rfl, rfl⟩⟩

end Sys2Proof.Machine

/-! PROOFS. The dispatch of a request (40_dispatch.md rules R100 to R120): admission in the order of
its checks, the state each route leaves, one EOI for each IRQ, and that HALTED is absorbing. Every
statement about a request goes through `exec_decode_vec8`: admission, then the route's rule. -/

namespace Sys2Proof.Machine

/-! ### Admission, one check at a time -/

section
variable {v : Byte} {err cr2 : Option Word32} {run : State → Result} {s : State}

theorem whenAdmitted_absent (hm : s.mode ≠ .halted) (hr : route s.cfg v = .absent) :
    whenAdmitted v err cr2 run s = .refused .absentVector := by
  rw [whenAdmitted, if_neg hm, if_pos hr]

theorem whenAdmitted_badSideValues (hm : s.mode ≠ .halted) (hr : route s.cfg v ≠ .absent)
    (hb : badSideValues s.cfg v err cr2 = true) :
    whenAdmitted v err cr2 run s = .refused .sideValueShape := by
  rw [whenAdmitted, if_neg hm, if_neg hr, if_pos hb]

/-- A request that fits, up to the check of `armed`. -/
theorem whenAdmitted_fits (hm : s.mode ≠ .halted) (hr : route s.cfg v ≠ .absent)
    (hb : badSideValues s.cfg v err cr2 = false) :
    whenAdmitted v err cr2 run s =
      if (route s.cfg v).isIrq && !s.armed then .next s
      else if s.mode = .handling then
        if (route s.cfg v).isIrq then .next s else raiseFault .nestedException s
      else run s := by
  rw [whenAdmitted, if_neg hm, if_neg hr, if_neg (by rw [hb]; decide), noStep_eq]

end

/-- Settles O34: the checks of `whenAdmitted`; a request that fits passes the first three. -/
theorem admissionChecksInOrder : Obligations.AdmissionChecksInOrder := by
  intro s v err cr2
  dsimp only
  rw [exec_decode_vec8, ← badSideValues_eq_false, Bool.not_eq_false]
  have hhandling : s.mode = .handling → s.mode ≠ .halted := by
    intro hm; rw [hm]; decide
  refine ⟨fun hm => whenAdmitted_halted hm, fun hm hr => whenAdmitted_absent hm hr,
    fun hm hr hb => whenAdmitted_badSideValues hm hr hb, fun hm hr hb hirq ha => ?_,
    fun hm hr hb hirq => ?_, fun hm hr hb hexc => ?_⟩
  · rw [whenAdmitted_fits hm hr hb, hirq, ha]; rfl
  · rw [whenAdmitted_fits (hhandling hm) hr hb, hirq, if_pos hm, if_pos rfl, ite_self]
  · rw [whenAdmitted_fits (hhandling hm) hr hb, hexc, if_pos hm]; rfl

/-! ### Requests to an idle router -/

section
variable {s : State} {v : Byte} {err cr2 : Option Word32}

/-- An exception that fits runs its route, armed or not. -/
theorem exception_runs (hm : s.mode = .idle)
    (hr : route s.cfg v ≠ .absent ∧ (route s.cfg v).isIrq = false)
    (hb : badSideValues s.cfg v err cr2 = false) :
    exec (decode s.cfg (.vec8 v err cr2)) s = routeRun v err cr2 (route s.cfg v) s := by
  rw [exec_decode_vec8, whenAdmitted_run hm hr.1 hb (by simp [hr.2])]

theorem missingCode_refused (hm : s.mode = .idle) (hr : route s.cfg v ≠ .absent)
    (hv : v ∈ s.cfg.errcodeVectors) :
    exec (decode s.cfg (.vec8 v none cr2)) s = .refused .sideValueShape := by
  obtain ⟨-, -, hmisfit, -⟩ := admissionChecksInOrder s v none cr2
  exact hmisfit (by rw [hm]; decide) hr fun ⟨hcode, _⟩ => Bool.false_ne_true (hcode.mpr hv)

theorem missingAddress_refused (hm : s.mode = .idle) :
    exec (decode s.cfg (.vec8 14 err none)) s = .refused .sideValueShape := by
  obtain ⟨-, -, hmisfit, -⟩ := admissionChecksInOrder s 14 err none
  exact hmisfit (by rw [hm]; decide) nofun fun ⟨_, haddress⟩ =>
    Bool.false_ne_true (haddress.mpr rfl)

/-- Every IRQ vector lies above the exceptions' (rule R57). -/
theorem lt_of_isIrq {c : Cfg} (h : c.ok = true) (hirq : (route c v).isIrq = true) :
    31 < v.toNat := by
  by_contra hv
  obtain ⟨-, hexc⟩ := route_of_exception h (v := v) (by omega)
  rw [hexc] at hirq
  cases hirq

/-- An IRQ request without side values decodes to its route's operation, runs the route while armed,
and is held while unarmed (rule R100). -/
theorem irq_request {r : Route} (hok : s.cfg.ok = true) (hr : route s.cfg v = r)
    (hirq : r.isIrq = true) (he : v ∉ s.cfg.errcodeVectors) (hm : s.mode = .idle) :
    decode s.cfg (.vec8 v none none) = r.instr v none none ∧
    (s.armed = true → exec (r.instr v none none) s = routeRun v none none r s) ∧
    (s.armed = false → exec (r.instr v none none) s = .next s) := by
  subst hr
  have hb := badSideValues_irq he (lt_of_isIrq hok hirq)
  refine ⟨rfl, fun ha => ?_, fun ha => ?_⟩
  · exact (exec_decode_vec8 s v none none).trans (whenAdmitted_irq hm hirq hb ha)
  · exact (exec_decode_vec8 s v none none).trans (whenAdmitted_unarmed hm hirq hb ha)

end

/-! ### The EOI and the return -/

/-- Settles O35: `eoiEvents` lists the two writes. -/
theorem eoiGoesToTheSlaveFirst : Obligations.EoiGoesToTheSlaveFirst :=
  fun irq s => sendEoi_eq irq s

/-- The end of an IRQ dispatch, with the consumer's wake written out (rules R45, R102, R117). -/
theorem eoiReturn_eq_of_wake (irq : Nat) (s : State) : eoiReturn irq s = { s with
    mode := .idle, conState := if s.conState = .asleep then .retry else s.conState
    trace := s.trace ++ eoiEvents s.cfg irq } := by
  rw [eoiReturn_eq, conState_wake]

/-! ### The handled exceptions -/

/-- A handled exception that fits reports and halts, as its route says. -/
theorem handled_halts {s : State} {v w : Byte} {err cr2 e : Option Word32} {k : ReportKind}
    {info : Info} (hm : s.mode = .idle) (hv : v ∈ handledExceptions)
    (hb : badSideValues s.cfg v err cr2 = false)
    (hrun : routeRun v err cr2 (route s.cfg v) s = .next (takeTerminal w e k info s)) :
    exec (decode s.cfg (.vec8 v err cr2)) s = .next { s with
      mode := .halted, curVector := w, curErr := e, haltReason := some (w, info)
      trace := s.trace ++ [.report k w info, .halt k] } := by
  rw [exception_runs hm (route_of_handled _ hv) hb, hrun, takeTerminal_eq]

/-- Settles O26: vectors 0, 1 and 3 fit without side values and run the three routes. -/
theorem exceptionsWithoutCodeReportAndHalt : Obligations.ExceptionsWithoutCodeReportAndHalt := by
  refine ⟨fun s hm => ⟨fun h => ?_, fun h => ?_, fun h => ?_⟩, fun c => ⟨rfl, rfl, rfl⟩⟩
  · exact handled_halts (v := 0) hm (by decide) (badSideValues_none h (by decide)) rfl
  · exact handled_halts (v := 1) hm (by decide) (badSideValues_none h (by decide)) rfl
  · exact handled_halts (v := 3) hm (by decide) (badSideValues_none h (by decide)) rfl

/-- Settles O27: with the side values of rule R72 the three routes run; without one of them the
request is refused. -/
theorem exceptionsWithCodeReportAndHalt : Obligations.ExceptionsWithCodeReportAndHalt := by
  refine ⟨fun s e a hm => ⟨fun h => ⟨?_, ?_⟩, fun h => ⟨?_, ?_⟩, fun h => ⟨?_, ?_, ?_, ?_⟩⟩,
    fun c err cr2 => ⟨rfl, rfl, rfl⟩⟩
  · exact handled_halts (v := 8) hm (by decide)
      (badSideValues_eq_false.mpr ⟨iff_of_true rfl h, by decide⟩) rfl
  · exact missingCode_refused (v := 8) hm nofun h
  · exact handled_halts (v := 13) hm (by decide)
      (badSideValues_eq_false.mpr ⟨iff_of_true rfl h, by decide⟩) rfl
  · exact missingCode_refused (v := 13) hm nofun h
  · exact handled_halts (v := 14) hm (by decide)
      (badSideValues_eq_false.mpr ⟨iff_of_true rfl h, iff_of_true rfl rfl⟩) rfl
  · exact missingCode_refused (v := 14) hm nofun h
  · exact missingAddress_refused hm
  · exact missingAddress_refused hm

/-! ### The routes without a device -/

/-- The vector of a well-formed dispatch operation has the operation's route: it decodes to the
operation, whose row names the route. -/
theorem route_of_wf {c : Cfg} {r : Route} {v : Byte} {err cr2 : Option Word32} (hok : c.ok = true)
    (hw : (r.instr v err cr2).wf c = true)
    (henc : encode c (r.instr v err cr2) = .vec8 v err cr2) : route c v = r := by
  have hdec := decodeOfEncodeIsTheOperation c _ hok hw
  rw [henc, decode] at hdec
  simpa [routeInstr_row] using congrArg Instr.row hdec

/-- Settles O28: the timer's route, with the EOI of line 0. -/
theorem timerTicksAndAcknowledges : Obligations.TimerTicksAndAcknowledges := by
  refine ⟨fun s hok he hm => ?_, rfl⟩
  obtain ⟨hdec, hrun, hheld⟩ := irq_request hok (route_timer hok) rfl he hm
  refine ⟨hdec, fun ha => (hrun ha).trans ?_, hheld⟩
  rw [routeRun, eoiReturn_eq_of_wake, emit_trace, List.append_assoc]
  rfl

/-- Settles O31: the route of the other IRQ vectors, with the EOI of the vector's line. -/
theorem otherIrqsAreLoggedAndAcknowledged : Obligations.OtherIrqsAreLoggedAndAcknowledged := by
  intro s v hok hw he hm
  have hroute : route s.cfg v = .irqUnhandled := route_of_wf hok hw rfl
  obtain ⟨hdec, hrun, hheld⟩ := irq_request hok hroute rfl he hm
  refine ⟨hdec, fun ha => (hrun ha).trans ?_, hheld⟩
  rw [routeRun, eoiReturn_eq_of_wake, emit_trace, List.append_assoc]
  rfl

/-- Settles O32: the route of the other exception vectors, which does not wait for `armed`. -/
theorem otherExceptionsAreLoggedAndReturn : Obligations.OtherExceptionsAreLoggedAndReturn := by
  intro s v err hok hw herr hm
  have hroute : route s.cfg v = .excUnhandled := route_of_wf hok hw rfl
  have hne : v ≠ 14 := by rintro rfl; cases hroute
  have hdec : decode s.cfg (.vec8 v err none) = .intExcUnhandled v err none := by
    rw [decode, hroute, Route.instr]
  have hfits : badSideValues s.cfg v err none = false :=
    badSideValues_eq_false.mpr ⟨herr, iff_of_false Bool.false_ne_true hne⟩
  have hrun := exception_runs hm (by rw [hroute]; exact ⟨nofun, rfl⟩) hfits
  rw [hdec, hroute, routeRun] at hrun
  refine ⟨hdec, hrun.trans ?_⟩
  rw [ret, emit_conState, enter_conState, conState_wake]
  rfl

/-- Settles O33: a halted block takes no step, any other refuses the vector. -/
theorem absentVectorsAreRefused : Obligations.AbsentVectorsAreRefused := by
  intro s v err cr2 hok hlow hout
  have hroute := route_absent hok hlow hout
  have hdec : decode s.cfg (.vec8 v err cr2) = .intAbsent v err cr2 := by
    rw [decode, hroute, Route.instr]
  obtain ⟨hhalted, habsent, -⟩ := admissionChecksInOrder s v err cr2
  rw [← hdec]
  refine ⟨rfl, ?_⟩
  split
  · exact hhalted ‹_›
  · exact habsent ‹_› hroute

/-! ### The keyboard route -/

/-- The state in which a dispatch without an error code runs its device's step: after entry and the
read of port 0x60. -/
theorem portIn_enter {s : State} {b : Byte} {agents : Agents} (h : ps2Answer s.agents = (b, agents))
    (p : Port) (v : Byte) : portIn p (enter v none s) = { s with
      mode := .handling, curVector := v, curErr := none
      agents := agents, trace := s.trace ++ [.input p b] } := by
  simp [portIn, ps2Byte, enter, emit, h]

/-- Enqueue looks at the buffer and the configuration only (rule R135). -/
theorem enqueue_congr {ch : Byte} {s m u : State} (hcfg : u.cfg = s.cfg) (hkb : u.kb = s.kb)
    (h : enqueue ch s = .next m) : enqueue ch u = .next { u with kb := m.kb } := by
  cases u
  cases hcfg
  cases hkb
  unfold enqueue at h ⊢
  split_ifs at h ⊢ <;> cases h <;> rfl

/-- `KbdStep` looks at the keyboard state and the configuration only (rules R32, R130). -/
theorem kbdStep_congr {b : Byte} {s m u : State} (hcfg : u.cfg = s.cfg) (hkmod : u.kmod = s.kmod)
    (hkb : u.kb = s.kb) (h : kbdStep b s = .next m) :
    kbdStep b u = .next { u with kmod := m.kmod, kb := m.kb } := by
  have hdecode : kbdDecode u.cfg u.kmod b = kbdDecode s.cfg s.kmod b := by rw [hcfg, hkmod]
  rw [kbdStep_form] at h ⊢
  rw [hdecode]
  split at h
  · cases h; rw [← hkb]
  · have hm : m.kmod = (kbdDecode s.cfg s.kmod b).1 := by
      rcases enqueue_eq_next h with rfl | ⟨-, -, rfl⟩ <;> rfl
    rw [hm]
    exact enqueue_congr (s := { s with kmod := (kbdDecode s.cfg s.kmod b).1 })
      (u := { u with kmod := (kbdDecode s.cfg s.kmod b).1 }) hcfg hkb h

theorem kbdStep_frame {b : Byte} {s m : State} (h : kbdStep b s = .next m) :
    m = { s with kmod := m.kmod, kb := m.kb } := by
  rcases kbdStep_eq_next h with rfl | ⟨ch, -, -, -, rfl⟩ <;> rfl

/-- Settles O29: the scancode's step does not see the entry and the read before it
(`kbdStep_congr`). -/
theorem keyboardDispatchRunsTheScancode : Obligations.KeyboardDispatchRunsTheScancode := by
  refine ⟨fun s b agents hok he hm hhead hps2 => ?_, rfl⟩
  obtain ⟨hdec, hrun, hheld⟩ := irq_request hok (route_kbd hok) rfl he hm
  refine ⟨hdec, fun ha => ?_, hheld⟩
  have hbyte : ps2Byte s = b := congrArg Prod.fst hps2
  obtain ⟨m, hstep⟩ := kbdStep_runs b hhead
  refine ⟨m, (kbdStep_eq_exec b s).symm.trans hstep, (hrun ha).trans ?_⟩
  have hdevice := kbdStep_congr (s := s) (u := portIn ps2Port (enter (s.cfg.irqBase + 1) none s))
    rfl rfl rfl hstep
  rw [portIn_enter hps2] at hdevice
  rw [routeRun, hbyte, portIn_enter hps2, hdevice, andThen_next, eoiReturn_eq_of_wake,
    kbdStep_frame hstep, List.append_assoc]
  rfl

/-! ### The mouse route -/

/-- `MouseStep` answers a next state where a saved cell is in the display: a completed packet leaves
the position there for Redraw (rules R58, R186, R187). -/
theorem mouseStep_answers (b : Byte) {s : State} (hok : s.cfg.ok = true)
    (hs : s.cursor.savedValid = true → inDisplay s.cfg s.cursor.savedX s.cursor.savedY = true) :
    ∃ t, mouseStep b s = .next t := by
  obtain ⟨-, -, hw, hh⟩ := ok_sizes hok
  unfold mouseStep
  split
  case h_4 => exact ⟨_, if_pos (completePacket_inDisplay hw hh hs)⟩
  all_goals exact ⟨_, rfl⟩

theorem mouseStep_eq_exec_decode (b : Byte) (s : State) :
    mouseStep b s = exec (decode s.cfg (.mw10 (mouseWord s.mouse.phase b))) s := by
  rw [mouseStep_eq_exec, decode, mwPhase_mouseWord, mwByte_mouseWord]

/-- Settles O30: the MW10 word's step runs on the state after entry and read, and leaves the
consumer and the configuration to the return. -/
theorem mouseDispatchRunsTheByte : Obligations.MouseDispatchRunsTheByte := by
  refine ⟨fun s b agents hok he hm hp hs hps2 => ?_, rfl⟩
  obtain ⟨hdec, hrun, hheld⟩ := irq_request hok (route_mouse hok) rfl he hm
  refine ⟨hdec, fun ha => ?_, hheld⟩
  have hbyte : ps2Byte s = b := congrArg Prod.fst hps2
  obtain ⟨m, hstep⟩ := mouseStep_answers b
    (s := portIn ps2Port (enter (s.cfg.irqBase + 12) none s)) hok hs
  obtain ⟨hframe, -⟩ := mouseDispatch_inner hp hstep
  have hcfg : m.cfg = s.cfg := by rw [hframe]
  have hcon : m.conState = s.conState := by rw [hframe]
  refine ⟨m, ?_, (hrun ha).trans ?_⟩
  · rw [mouseStep_eq_exec_decode, portIn_enter hps2] at hstep
    exact hstep
  · rw [routeRun, if_neg hp, hbyte, hstep, andThen_next, eoiReturn_eq_of_wake, hcfg, hcon]
    rfl

/-! ### One EOI, and one end, for each request -/

theorem isOut_eq_false {e : Event} (h : ∀ p v, e ≠ .output p v) : e.isOut = false := by
  cases e with
  | output p v => exact absurd rfl (h p v)
  | _ => rfl

/-- What an IRQ route leaves to its EOI and return: it has written no port, and the configuration
and the consumer are as they were. -/
structure BeforeEoi (s m : State) : Prop where
  cfg : m.cfg = s.cfg
  conState : m.conState = s.conState
  events : ∃ es : List Event, es.all (fun e => !e.isOut) = true ∧ m.trace = s.trace ++ es

/-- A route below phase 3 ends in one of three ways: a handled exception halts, the other exceptions
return, and an IRQ acknowledges its line and returns (rules R102, R103, R117). -/
theorem routeRun_eq_next {s t : State} {v : Byte} {err cr2 : Option Word32} {r : Route}
    (hp : s.mouse.phase ≠ 3) (h : routeRun v err cr2 r s = .next t) :
    (isTerminal (r.instr v err cr2) = true ∧ irqLine s.cfg (r.instr v err cr2) = none ∧
      ∃ w e k info, t = takeTerminal w e k info s) ∨
    (isTerminal (r.instr v err cr2) = false ∧ irqLine s.cfg (r.instr v err cr2) = none ∧
      t = ret (emit (.log v err) (enter v err s))) ∨
    (isTerminal (r.instr v err cr2) = false ∧ ∃ irq m,
      t = eoiReturn irq m ∧ irqLine s.cfg (r.instr v err cr2) = some irq ∧ BeforeEoi s m) := by
  cases r with
  | timer => cases h; exact .inr (.inr ⟨rfl, _, _, rfl, rfl, rfl, rfl, [_], rfl, rfl⟩)
  | irqUnhandled => cases h; exact .inr (.inr ⟨rfl, _, _, rfl, rfl, rfl, rfl, [_], rfl, rfl⟩)
  | kbd =>
    obtain ⟨m, hstep, ht⟩ := andThen_eq_next h
    obtain ⟨hm, -⟩ := keyboardDispatch_inner hstep
    cases ht
    exact .inr (.inr ⟨rfl, _, m, rfl, rfl, by rw [hm], by rw [hm], [_], rfl, by rw [hm]⟩)
  | mouse =>
    rw [routeRun, if_neg hp] at h
    obtain ⟨m, hstep, ht⟩ := andThen_eq_next h
    obtain ⟨hm, -, -, ⟨es, htrace, hes⟩, -⟩ := mouseDispatch_inner hp hstep
    have hout : es.all (fun e => !e.isOut) = true :=
      List.all_eq_true.mpr fun e he => by rw [isOut_eq_false (hes e he)]; rfl
    cases ht
    exact .inr (.inr ⟨rfl, _, m, rfl, rfl, by rw [hm], by rw [hm], es, hout, htrace⟩)
  | excUnhandled => cases h; exact .inr (.inl ⟨rfl, rfl, rfl⟩)
  | absent => cases h
  | _ => cases h; exact .inl ⟨rfl, rfl, _, _, _, _, rfl⟩

/-- A request that an idle router answers ran its route, unless it was an IRQ while unarmed. -/
theorem routeRun_of_taken {s t : State} {v : Byte} {err cr2 : Option Word32} (hm : s.mode = .idle)
    (ha : (route s.cfg v).isIrq = true → s.armed = true)
    (h : exec (decode s.cfg (.vec8 v err cr2)) s = .next t) :
    routeRun v err cr2 (route s.cfg v) s = .next t := by
  rcases routeRun_of_next hm h with ⟨-, hirq, hunarmed⟩ | hrun
  · rw [ha hirq] at hunarmed
    cases hunarmed
  · exact hrun

/-- The line a route acknowledges is the vector's offset from `IRQ_BASE`, and only an IRQ route has
one (rules R77, R117). -/
def AcknowledgesOwnLine (c : Cfg) (v : Byte) (r : Route) : Prop :=
  ∀ err cr2, irqLine c (r.instr v err cr2) =
    if r.isIrq then some (v.toNat - c.irqBase.toNat) else none

theorem route_acknowledgesOwnLine (c : Cfg) (v : Byte) : AcknowledgesOwnLine c v (route c v) := by
  have hline : ∀ {n}, v.toNat = c.irqBase.toNat + n → some n = some (v.toNat - c.irqBase.toNat) :=
    fun h => by rw [h, Nat.add_sub_cancel_left]
  unfold route
  iterate 6 refine iteInduction (fun _ _ _ => rfl) fun _ => ?_
  refine iteInduction (fun h _ _ => hline h) fun _ => ?_
  refine iteInduction (fun h _ _ => hline h) fun _ => ?_
  refine iteInduction (fun h _ _ => hline h) fun _ => ?_
  iterate 2 refine iteInduction (fun _ _ _ => rfl) fun _ => ?_
  exact fun _ _ => rfl

/-- Settles O36: only the EOI of the third way writes a port. -/
theorem exactlyOneEoiPerIrqDispatch : Obligations.ExactlyOneEoiPerIrqDispatch := by
  intro s t v err cr2 hm ha hp h
  have heoi : (if (route s.cfg v).isIrq then eoiEvents s.cfg (v.toNat - s.cfg.irqBase.toNat)
      else []) = (irqLine s.cfg ((route s.cfg v).instr v err cr2)).elim [] (eoiEvents s.cfg) := by
    rw [route_acknowledgesOwnLine s.cfg v err cr2]
    split <;> rfl
  rw [heoi]
  rcases routeRun_eq_next hp (routeRun_of_taken hm ha h) with
    ⟨-, hnone, w, e, k, info, rfl⟩ | ⟨-, hnone, rfl⟩ | ⟨-, irq, m, rfl, hirq, hbefore⟩
  · exact ⟨[.report k w info, .halt k], rfl, by simp [hnone]⟩
  · exact ⟨[.log v err], rfl, by simp [hnone]⟩
  · obtain ⟨es, hout, htrace⟩ := hbefore.events
    exact ⟨es, hout, by rw [hirq, eoiReturn_trace, htrace, hbefore.cfg]; rfl⟩

/-- Settles O37: `ret` is the wake and the mode, and the three ways a route ends. -/
theorem dispatchReturnsOrHalts : Obligations.DispatchReturnsOrHalts := by
  refine ⟨fun s => by rw [ret, conState_wake], fun s t v err cr2 hm ha hp h => ?_⟩
  rw [decode, ← conState_wake]
  rcases routeRun_eq_next hp (routeRun_of_taken hm ha h) with
    ⟨hterm, -, w, e, k, info, rfl⟩ | ⟨hterm, -, rfl⟩ | ⟨hterm, irq, m, rfl, -, hbefore⟩
  · rw [if_pos hterm]
    exact ⟨rfl, rfl⟩
  · rw [if_neg (by rw [hterm]; decide)]
    exact ⟨rfl, rfl⟩
  · rw [if_neg (by rw [hterm]; decide), eoiReturn_conState, hbefore.conState]
    exact ⟨rfl, rfl⟩

/-! ### HALTED -/

/-- Admission checks the mode first (rules R100, R118). -/
theorem dispatch_halted {i : Instr} {s : State} (hf : i.format = .vec8) (hm : s.mode = .halted) :
    exec i s = .next s := by
  cases i <;> cases hf
  all_goals
    simp only [exec, execIntDe, execIntDb, execIntBp, execIntDf, execIntGp, execIntPf,
      execIntIrqTimer, execIntIrqKbd, execIntIrqMouse, execIntIrqUnhandled, execIntExcUnhandled,
      execIntAbsent]
    exact whenAdmitted_halted hm

/-- Three commands are out of turn, and the reserved one is refused only outside HALTED (rule
R164). -/
theorem consumer_halted {i : Instr} {s : State} (hf : i.format = .con2) (hm : s.mode = .halted) :
    exec i s = .next s := by
  have hidle : s.mode ≠ .idle := by rw [hm]; decide
  obtain ⟨hhasKey, harm, hread⟩ := commandsOutOfTurnAreHeld s (.inl hidle)
  cases i <;> cases hf
  case conHasKey => exact hhasKey
  case conReadChar => exact hread hidle
  case conArm => exact harm
  case conReserved => exact (exec_conReserved s).trans (if_pos hm)

/-- Settles O38: an offer is of one of the two families, and a step only takes it. -/
theorem haltedIsAbsorbing : Obligations.HaltedIsAbsorbing := by
  have hexec : ∀ (i : Instr) (s : State), s.mode = .halted → i.format = .vec8 ∨ i.format = .con2 →
      exec i s = .next s :=
    fun i s hm hf => hf.elim (dispatch_halted · hm) (consumer_halted · hm)
  refine ⟨hexec, fun s hm hok => ?_⟩
  obtain ⟨hoffered, hnone, -⟩ := stepRunsTheDecodedOperation
  cases hin : s.agents.inputs with
  | nil => exact ⟨s.agents.inputs, hnone s hok hin⟩
  | cons o rest =>
    exact ⟨rest, (hoffered s o rest hok hin).trans (hexec _ _ hm (offer_format s.cfg o))⟩

/-- Settles O39: the other families do not write `mode`, and of a dispatch's outcomes only a handled
exception's is halted. -/
theorem onlyHandledExceptionsHalt : Obligations.OnlyHandledExceptionsHalt := by
  intro i s t h hhalted
  rcases format_cases i with hf | hf | hf | hf
  · rw [(keyboardOperationsFrame i s t hf h).1] at hhalted
    exact .inl hhalted
  · rcases dispatch_outcome hf h with
      rfl | ⟨f, -, rfl⟩ | ⟨hterm, v, err, kind, info, rfl⟩ | ⟨-, hserv⟩
    · exact .inl hhalted
    · exact .inl hhalted
    · exact .inr ⟨hterm, info, rfl⟩
    · rw [hserv.frame] at hhalted
      cases hhalted
  · rw [(mouseOperationsFrame i s t hf h).1] at hhalted
    exact .inl hhalted
  · rw [(consumerOperationsFrame i s t hf h).1] at hhalted
    exact .inl hhalted

end Sys2Proof.Machine

/-! PROOFS. The keyboard decoder, the key buffer's enqueue and the consumer's commands
(41_keyboard.md rules R130 to R149 and R160 to R163): the codes of each key, the character of a make
code, and the state each operation leaves. -/

namespace Sys2Proof.Machine

/-! ### The codes of the keys -/

/-- The two rows that are no modifier's, for a key that is none (rules R79, R148, R149). -/
theorem sc8Row_of_plainKey {c : Cfg} {sc : Byte} (h : c.plainKey (scIdx sc) = true) :
    sc8Row c sc = if scReleased sc then .keyBreak else .keyMake := by
  obtain ⟨hl, hr, hctrl, halt, hcaps⟩ := plainKey_iff.mp h
  simp only [sc8Row, if_neg hl, if_neg hr, if_neg hctrl, if_neg halt, if_neg hcaps]

theorem decode_makeCode_of_plainKey {c : Cfg} {idx : KeyIdx} (h : c.plainKey idx = true) :
    decode c (.sc8 (makeCode idx)) = .kbKeyMake idx := by
  rw [decode, sc8Row_of_plainKey (by rwa [scIdx_makeCode]), scReleased_makeCode, scIdx_makeCode]
  rfl

theorem decode_breakCode_of_plainKey {c : Cfg} {idx : KeyIdx} (h : c.plainKey idx = true) :
    decode c (.sc8 (breakCode idx)) = .kbKeyBreak idx := by
  rw [decode, sc8Row_of_plainKey (by rwa [scIdx_breakCode]), scReleased_breakCode, scIdx_breakCode]
  rfl

/-- The one row that yields a character: a press of a key that is no modifier's (rule R134). -/
theorem sc8Row_eq_keyMake_iff {c : Cfg} {sc : Byte} :
    sc8Row c sc = .keyMake ↔ scReleased sc = false ∧ scIdx sc ∉ c.modifiers := by
  have hplain : c.plainKey (scIdx sc) = true ↔ scIdx sc ∉ c.modifiers := by simp [Cfg.plainKey]
  rw [← hplain]
  constructor
  · intro hrow
    obtain ⟨henc, hwf⟩ := sc8Row_sound c sc
    rw [hrow] at henc hwf
    injection henc with hcode
    exact ⟨hcode ▸ scReleased_makeCode _, hwf⟩
  · rintro ⟨hpress, hkey⟩
    rw [sc8Row_of_plainKey hkey, hpress]
    rfl

/-! ### The modifier keys -/

/-- Settles O14: the four operations write the one flag, and each code is its operation's word. -/
theorem shiftKeysWriteTheOneFlag : Obligations.ShiftKeysWriteTheOneFlag := by
  refine ⟨fun s => ⟨rfl, rfl, rfl, rfl⟩, fun c h => ?_, by decide⟩
  have hcode := fun i => decodeOfEncodeIsTheOperation c i h
  exact ⟨hcode .kbLshiftMake rfl, hcode .kbRshiftMake rfl, hcode .kbLshiftBreak rfl,
    hcode .kbRshiftBreak rfl⟩

/-- Settles O15: each operation writes its own flag, and each code is its operation's word. -/
theorem ctrlAndAltWriteTheirFlags : Obligations.CtrlAndAltWriteTheirFlags := by
  refine ⟨fun s => ⟨rfl, rfl, rfl, rfl⟩, fun c h => ?_, by decide⟩
  have hcode := fun i => decodeOfEncodeIsTheOperation c i h
  exact ⟨hcode .kbCtrlMake rfl, hcode .kbCtrlBreak rfl, hcode .kbAltMake rfl,
    hcode .kbAltBreak rfl⟩

theorem pressCaps_of_up {k : KMod} (h : k.capsDown = false) :
    k.pressCaps = { k with caps := !k.caps, capsDown := true } := by
  simp [KMod.pressCaps, h]

/-- A typematic repeat of Caps Lock does not toggle (rule R146). -/
theorem pressCaps_of_down {k : KMod} (h : k.capsDown = true) : k.pressCaps = k := by
  cases k
  cases h
  rfl

/-- Settles O16: the make code on a key that is up and on one that is down, and the codes. -/
theorem capsLockTogglesOnThePressEdge : Obligations.CapsLockTogglesOnThePressEdge := by
  refine ⟨fun s => ⟨fun hup => ?_, fun hdown => ?_, rfl⟩, fun c h => ?_, by decide⟩
  · rw [exec_kbCapsMake, execKbCapsMake, pressCaps_of_up hup]
  · rw [exec_kbCapsMake, execKbCapsMake, pressCaps_of_down hdown]
  · have hcode := fun i => decodeOfEncodeIsTheOperation c i h
    exact ⟨hcode .kbCapsMake rfl, hcode .kbCapsBreak rfl⟩

/-! ### The character of a make code -/

theorem isLower_iff {ch : Byte} : isLower ch = true ↔ 0x61 ≤ ch.toNat ∧ ch.toNat ≤ 0x7A := by
  simp [isLower]

theorem letterKey_iff {c : Cfg} {idx : KeyIdx} :
    letterKey c idx = true ↔ 0x61 ≤ (c.unshAt idx).toNat ∧ (c.unshAt idx).toNat ≤ 0x7A :=
  isLower_iff

/-- While Ctrl is held Caps Lock does not select a letter's table (rule R132, C1). -/
theorem tableChar_of_ctrl_letter {c : Cfg} {k : KMod} {idx : KeyIdx} (hl : letterKey c idx = true)
    (hc : k.ctrl = true) (hs : k.shift = false) : tableChar c k idx = c.unshAt idx := by
  simp [tableChar, shiftedTable, hl, hc, hs]

theorem controlCode_of_ctrl_lower {k : KMod} {ch : Byte} (hc : k.ctrl = true)
    (hl : isLower ch = true) : controlCode k ch = ch - 0x60 := by
  simp [controlCode, hc, hl]

theorem keyOutput_eq_none_iff {c : Cfg} {k : KMod} {idx : KeyIdx} :
    keyOutput c k idx = none ↔ tableChar c k idx = 0 := by
  simp [keyOutput]

theorem keyOutput_eq_some_iff {c : Cfg} {k : KMod} {idx : KeyIdx} {ch : Byte} :
    keyOutput c k idx = some ch ↔
      tableChar c k idx ≠ 0 ∧ ch = controlCode k (tableChar c k idx) := by
  simp [keyOutput, eq_comm]

theorem kbdDecode_output (c : Cfg) (k : KMod) (sc : Byte) :
    (kbdDecode c k sc).2 =
      if sc8Row c sc = .keyMake then keyOutput c k (scIdx sc) else none := by
  unfold kbdDecode
  cases sc8Row c sc <;> rfl

/-- Settles O22: the definition, and the default table looked up key by key. -/
theorem letterKeysOfTheDefaultTable : Obligations.LetterKeysOfTheDefaultTable :=
  ⟨fun _ _ => letterKey_iff, by decide⟩

/-- Settles O21: the unshifted letter is selected, and the Ctrl rule takes 0x60 from it. -/
theorem controlCodesIgnoreCapsLock : Obligations.ControlCodesIgnoreCapsLock := by
  intro c k idx hl hc hs
  obtain ⟨hlow, hhigh⟩ := letterKey_iff.mp hl
  have hchar := tableChar_of_ctrl_letter hl hc hs
  have hsub : (c.unshAt idx - 0x60).toNat + 0x60 = (c.unshAt idx).toNat := by bv_omega
  refine ⟨c.unshAt idx - 0x60, keyOutput_eq_some_iff.mpr ⟨?_, ?_⟩, hsub, by omega, by omega⟩
  · rw [hchar]
    bv_omega
  · rw [hchar, controlCode_of_ctrl_lower hc hl]

/-- Settles O20: only the row of a plain key's press yields the key's output. -/
theorem outputRuleOfTheDecoder : Obligations.OutputRuleOfTheDecoder := by
  intro c k sc
  refine ⟨?_, fun ch hch => ⟨?_, kbdDecode_ne_zero hch⟩⟩
  · rw [kbdDecode_output]
    split
    case isTrue hrow =>
      obtain ⟨hpress, hkey⟩ := sc8Row_eq_keyMake_iff.mp hrow
      simp [keyOutput_eq_none_iff, hpress, hkey]
    case isFalse hrow =>
      rw [sc8Row_eq_keyMake_iff, not_and_or, Bool.not_eq_false, not_not] at hrow
      simpa using hrow.imp_right .inl
  · rw [kbdDecode_output] at hch
    split at hch
    · exact (keyOutput_eq_some_iff.mp hch).2
    · cases hch

/-- Settles O19: the map selects the operation, and `kbdStep_form` is the other equation. -/
theorem kbdStepIsDecodeThenEnqueue : Obligations.KbdStepIsDecodeThenEnqueue :=
  fun sc s => ⟨kbdStep_eq_exec sc s, (kbdStep_eq_exec sc s).symm.trans (kbdStep_form sc s)⟩

/-! ### The keys that are no modifiers -/

/-- Settles O24: of what Enqueue can do, the fault needs a head outside the slots. -/
theorem enqueueWritesOrDrops : Obligations.EnqueueWritesOrDrops := by
  intro ch s hh
  rcases enqueue_cases ch s with ⟨hfull, he⟩ | ⟨hroom, -, he⟩ | ⟨-, hout, -⟩
  · rw [if_pos (of_decide_eq_true hfull), he]
  · rw [if_neg (of_decide_eq_false hroom), he]
  · omega

theorem execKbKeyMake_of_null {s : State} {idx : KeyIdx} (h : tableChar s.cfg s.kmod idx = 0) :
    execKbKeyMake idx s = .next s := by
  rw [execKbKeyMake, keyOutput_eq_none_iff.mpr h]

theorem execKbKeyMake_of_char {s : State} {idx : KeyIdx} (h : tableChar s.cfg s.kmod idx ≠ 0) :
    execKbKeyMake idx s = enqueue (controlCode s.kmod (tableChar s.cfg s.kmod idx)) s := by
  rw [execKbKeyMake, keyOutput_eq_some_iff.mpr ⟨h, rfl⟩]

/-- Settles O17: the statement's table character and Ctrl rule are the model's, and the enqueue is
O24's. -/
theorem keyMakeEnqueuesTheCharacter : Obligations.KeyMakeEnqueuesTheCharacter := by
  refine ⟨fun c idx h => decode_makeCode_of_plainKey h, ?_⟩
  intro s idx hh k u sel ch out
  have hchar : tableChar s.cfg s.kmod idx = ch := by
    simp only [tableChar, shiftedTable, letterKey_iff, ch, sel, u, k]
  have hout : controlCode s.kmod ch = out := by
    simp only [controlCode, Bool.and_eq_true, isLower_iff, out, k]
  rw [exec_kbKeyMake]
  split
  case isTrue hnull => exact execKbKeyMake_of_null (hchar.trans hnull)
  case isFalse hne =>
    rw [execKbKeyMake_of_char (hchar ▸ hne), hchar, hout]
    exact enqueueWritesOrDrops out s hh

/-- Settles O18: the operation answers the state it was given, and the prefixes are plain keys of
the default configuration. -/
theorem keyBreakChangesNothing : Obligations.KeyBreakChangesNothing :=
  ⟨fun _ _ => rfl, fun _ _ h => decode_breakCode_of_plainKey h,
    decode_breakCode_of_plainKey (idx := 0x60) (by decide),
    decode_breakCode_of_plainKey (idx := 0x61) (by decide)⟩

/-! ### The consumer's commands -/

theorem conIssue_run {run : State → Result} {s : State} (hm : s.mode = .idle)
    (hc : s.conState = .ready) : conIssue run s = run s := if_pos ⟨hm, hc⟩

/-- Settles O47: HAS_KEY taken, and HAS_KEY held by a halted block. -/
theorem hasKeyReturnsTheEmptyTest : Obligations.HasKeyReturnsTheEmptyTest := by
  refine ⟨fun s hm hc => ?_, fun s hm => consumer_halted rfl hm, fun _ => rfl⟩
  rw [exec_conHasKey, execConHasKey, conIssue_run hm hc, KeyBuffer.empty, decide_not]

theorem testStep_of_empty {s : State} (h : s.kb.head = s.kb.tail) :
    testStep s = .next { s with conState := .preHlt } := by
  rcases testStep_cases s with ⟨-, he⟩ | ⟨hne, -⟩ | ⟨hne, -⟩
  · exact he
  · exact absurd h hne
  · exact absurd h hne

theorem testStep_of_unread {s : State} (hne : s.kb.head ≠ s.kb.tail)
    (ht : s.kb.tail < s.cfg.kbufN) :
    testStep s = .next { s with
      kb := { s.kb with tail := (s.kb.tail + 1) % s.cfg.kbufN }
      conState := .ready
      trace := s.trace ++ [.read (s.kb.cells.read s.kb.tail)] } := by
  rcases testStep_cases s with ⟨h, -⟩ | ⟨-, -, he⟩ | ⟨-, hout, -⟩
  · exact absurd h hne
  · exact he
  · omega

theorem execConReadChar_hlt {s : State} (hm : s.mode = .idle) (hc : s.conState = .preHlt) :
    exec .conReadChar s = .next { s with conState := .asleep } := by
  simp [execConReadChar, hltStep, hm, hc]

theorem execConReadChar_asleep {s : State} (hm : s.mode = .idle) (hc : s.conState = .asleep) :
    exec .conReadChar s = .next s := by
  simp [execConReadChar, hm, hc]

/-- Settles O48: one law for each value of `con_state`, and the wake of a dispatch's return. -/
theorem readCharTestsWaitsAndPops : Obligations.ReadCharTestsWaitsAndPops := by
  refine ⟨fun s hm => ⟨fun hc hne ht => ?_, fun hc hempty => ?_, execConReadChar_hlt hm,
    execConReadChar_asleep hm⟩, fun s hm => consumer_halted rfl hm, fun s hc => ?_, fun _ => rfl⟩
  · rw [execConReadChar_test hm hc, testStep_of_unread hne ht]
  · rw [execConReadChar_test hm hc, testStep_of_empty hempty]
  · rw [ret_conState, conState_wake, if_pos hc]

/-- Settles O49: ARM is taken from READY and IDLE, armed or not. -/
theorem armEnablesInterrupts : Obligations.ArmEnablesInterrupts := by
  have harm : ∀ s : State, s.mode = .idle → s.conState = .ready →
      exec .conArm s = .next { s with armed := true } := fun s hm hc => by
    rw [exec_conArm, execConArm, conIssue_run hm hc]
  exact ⟨fun s hm hc => ⟨harm s hm hc, harm { s with armed := true } hm hc⟩, fun _ => rfl⟩

/-- Settles O50: the command's two answers are its definition. -/
theorem reservedCommandIsRefused : Obligations.ReservedCommandIsRefused :=
  ⟨fun s => exec_conReserved s, fun _ => rfl⟩

end Sys2Proof.Machine

/-! PROOFS. The mouse packet assembler (42_mouse.md rules R180 to R189): the bytes of a packet one
phase at a time, the displacements and the position they lead to, and the redraw of the cursor. -/

namespace Sys2Proof.Machine

/-! ### The bytes of a packet -/

/-- Settles O41: the two stores are the operations' definitions, and each word is its operation's. -/
theorem mouseBytesAreStoredOrDiscarded : Obligations.MouseBytesAreStoredOrDiscarded := by
  refine ⟨fun s b => ⟨rfl, rfl, rfl⟩, fun c b => ⟨fun hset => ?_, fun hclear => ?_, ?_⟩⟩
  · exact decode_encode_mw10 (i := .msSyncAccept b) rfl hset
  · exact decode_encode_mw10 (i := .msSyncDiscard b) rfl (by simpa [Instr.wf] using hclear)
  · exact decode_encode_mw10 (i := .msByte1 b) rfl rfl

/-- Settles O43: the operation records the fault, and at phase 3 the mouse's route is that
operation. -/
theorem phaseThreeRaisesTheFault : Obligations.PhaseThreeRaisesTheFault := by
  refine ⟨fun c b => decode_encode_mw10 (i := .msPhase3 b) rfl rfl, fun s b => rfl,
    fun s hok he hm ha hp => ?_⟩
  obtain ⟨-, hrun, -⟩ := irq_request hok (route_mouse hok) rfl he hm
  calc exec (.intIrqMouse none none) s
    _ = routeRun (s.cfg.irqBase + 12) none none .mouse s := hrun ha
    _ = execMsPhase3 (ps2Byte s) s := if_pos hp

/-! ### The movement -/

/-- A movement operand has 9 bits, and -256 is not among its values (rules R76, R189). -/
theorem mv_range (m : Byte) (sg : Bool) : -255 ≤ mv m sg ∧ mv m sg ≤ 255 := by
  have hbyte : m.toNat < 256 := m.isLt
  unfold mv
  split
  case isTrue hneg =>
    obtain ⟨-, hpos⟩ := hneg
    omega
  case isFalse => omega

theorem inDisplay_iff {c : Cfg} {x y : Int} :
    inDisplay c x y = true ↔ (0 ≤ x ∧ x < c.width) ∧ (0 ≤ y ∧ y < c.height) := by
  simp [inDisplay, and_assoc]

/-- The clamp puts every position into a display that has a cell (rules R10, R186). -/
theorem moved_inDisplay {c : Cfg} (hw : 1 ≤ c.width) (hh : 1 ≤ c.height) (x dx y dy : Int) :
    inDisplay c (movedX c x dx) (movedY c y dy) = true :=
  inDisplay_iff.mpr ⟨movedX_range hw x dx, movedY_range hh y dy⟩

/-- Settles O45: the displacements are movement operands, so a position in the display moves by at
most 255 before the clamp. -/
theorem movementStaysInRange : Obligations.MovementStaysInRange := by
  intro c m x y hin
  obtain ⟨⟨hx0, hxw⟩, hy0, hyh⟩ := inDisplay_iff.mp hin
  obtain ⟨hdx0, hdx1⟩ : -255 ≤ packetDx c m ∧ packetDx c m ≤ 255 := mv_range _ _
  obtain ⟨hdy0, hdy1⟩ : -255 ≤ packetDy c m ∧ packetDy c m ≤ 255 := mv_range _ _
  refine ⟨hdx0, hdx1, hdy0, hdy1, by omega, by omega, by omega, by omega, ?_⟩
  exact moved_inDisplay (by omega) (by omega) x _ y _

/-! ### The completed packet -/

/-- Redraw as one state (rule R187): the restore, the save of the cell as DISP answers it, and the
cursor drawn over it. -/
theorem redraw_eq {s : State} (h : redrawInDisplay s = true) : redraw s = .next { s with
    cursor := savedCursor s.cursor (dispAnswer s.agents).1
    agents := (dispAnswer s.agents).2
    trace := s.trace ++ restoreEvents s.cursor ++ [.dread s.cursor.x s.cursor.y,
      drawEvent (savedCursor s.cursor (dispAnswer s.agents).1)] } := by
  rw [redraw, if_pos h, restoreCell_eq, List.append_cons]
  rfl

/-- Settles O42: after `MovePosition` every cell that Redraw uses is in the display, so `redraw_eq`
gives the state that follows the completed packet. -/
theorem packetCompletionMovesAndRedraws : Obligations.PacketCompletionMovesAndRedraws := by
  refine ⟨fun c b => decode_encode_mw10 (i := .msByte2Complete b) rfl rfl, ?_⟩
  intro s b g col agents hw hh hs hdisp
  have hcell : dispAnswer (completePacket b s).agents = ((g, col), agents) := hdisp
  rw [exec_msByte2Complete, execMsByte2Complete, redraw_eq (completePacket_inDisplay hw hh hs),
    hcell]
  rfl

end Sys2Proof.Machine

/-! PROOFS. Reset, the unarmed block and the check-then-wait race (70_reset_and_hazards.md rules
R240, R253), and the runs of the block: what holds along them, how they end, and that each end
occurs (rules R251, R263, R264). -/

namespace Sys2Proof.Machine

/-- Settles O7: the reset action's two answers and the registers' values are the definitions. -/
theorem resetLoadsTheResetValues : Obligations.ResetLoadsTheResetValues :=
  ⟨fun _ => rfl, rfl,
    fun _ => ⟨rfl, rfl, rfl, rfl, rfl, rfl, rfl, rfl, rfl, rfl, rfl, rfl, rfl, rfl, rfl, rfl⟩⟩

/-! ### The unarmed block -/

/-- To an idle unarmed block a request is held or an exception: every IRQ route waits for `armed`
(rule R100), so no device action runs. -/
theorem unarmed_request {s t : State} {v : Byte} {err cr2 : Option Word32} (hm : s.mode = .idle)
    (ha : s.armed = false) (h : exec (decode s.cfg (.vec8 v err cr2)) s = .next t) :
    t = s ∨ (∃ w e k info, t = takeTerminal w e k info s) ∨
      (route s.cfg v = .excUnhandled ∧ t = ret (emit (.log v err) (enter v err s))) := by
  rw [exec_decode_vec8] at h
  rcases whenAdmitted_eq_next h with ⟨rfl, -⟩ | ⟨hhandling, -⟩ | ⟨-, hgate, -, harmed, hrun⟩
  · exact .inl rfl
  · rw [hm] at hhandling; cases hhandling
  have hirq : (route s.cfg v).isIrq ≠ true := fun hi => by rw [harmed hi] at ha; cases ha
  generalize route s.cfg v = r at hgate hirq hrun
  cases r
  case absent => exact absurd rfl hgate
  case timer | kbd | mouse | irqUnhandled => exact absurd rfl hirq
  case excUnhandled => cases hrun; exact .inr (.inr ⟨rfl, rfl⟩)
  all_goals cases hrun; exact .inr (.inl ⟨_, _, _, _, rfl⟩)

/-- A sleeping consumer issues no command (rule R45). -/
theorem consumer_asleep {i : Instr} {s t : State} (hf : i.format = .con2)
    (hc : s.conState = .asleep) (h : exec i s = .next t) : t = s := by
  rcases consumer_eq_next hf h with
    rfl | ⟨-, ⟨-, hcon, -⟩ | ⟨-, hcon, -⟩ | ⟨-, ⟨hcon | hcon, -⟩ | ⟨hcon, -⟩⟩⟩
  · rfl
  all_goals rw [hc] at hcon; cases hcon

/-- Settles O55: of a request only the return of an unhandled exception's route touches the
consumer, and a command neither enqueues nor wakes. -/
theorem unarmedNothingIsEnqueued : Obligations.UnarmedNothingIsEnqueued := by
  intro s t ha hm h
  obtain ⟨-, rfl | ⟨o, rest, hin, he⟩⟩ := step_eq_next h
  · exact ⟨rfl, rfl, .inl⟩
  cases o with
  | int v err cr2 =>
    rcases unarmed_request (s := { s with agents := { s.agents with inputs := rest } }) hm ha he
      with rfl | ⟨w, e, k, info, rfl⟩ | ⟨hroute, rfl⟩
    · exact ⟨rfl, rfl, .inl⟩
    · exact ⟨rfl, rfl, .inl⟩
    · refine ⟨rfl, rfl, fun hc => .inr ⟨?_, v, err, cr2, rest, hin, hroute⟩⟩
      rw [ret_conState, conState_wake]
      exact if_pos hc
  | con op =>
    have hf : (decode s.cfg (Offer.con op).word).format = .con2 := decodeCon2_format op
    obtain ⟨-, hcells, hhead, -⟩ := consumerOperationsFrame _ _ _ hf he
    refine ⟨hcells, hhead, fun hc => .inl ?_⟩
    rw [consumer_asleep hf (by exact hc) he]
    exact hc

/-! ### The check-then-wait race -/

theorem kbdStep_of_char {b ch : Byte} {s : State} (h : (kbdDecode s.cfg s.kmod b).2 = some ch) :
    kbdStep b s = enqueue ch { s with kmod := (kbdDecode s.cfg s.kmod b).1 } := by
  rw [kbdStep_form, h]

/-- Enqueue into an empty buffer stores the character: a buffer has two slots at least (rule R8). -/
theorem enqueue_of_empty {ch : Byte} {s : State} (hok : s.cfg.ok = true)
    (hempty : s.kb.head = s.kb.tail) (hh : s.kb.head < s.cfg.kbufN) :
    ∃ t, enqueue ch s = .next t ∧ t.kb.head ≠ t.kb.tail := by
  obtain ⟨hn, -⟩ := ok_sizes hok
  have hroom : (s.kb.head + 1) % s.cfg.kbufN ≠ s.kb.tail := by
    rw [succ_mod hh]
    split <;> omega
  rcases enqueue_cases ch s with ⟨hfull, -⟩ | ⟨-, -, he⟩ | ⟨-, hout, -⟩
  · exact absurd (of_decide_eq_true hfull) hroom
  · exact ⟨_, he, hroom⟩
  · omega

/-- Settles O56: the dispatch enqueues into the buffer seen empty and leaves a consumer that is past
its check, so the HLT step is next all the same. -/
theorem checkThenWaitRaceIsAdmitted : Obligations.CheckThenWaitRaceIsAdmitted := by
  intro s b ch agents hok he hm ha hc hempty hh hps2 hch
  obtain ⟨-, hrun, -⟩ := keyboardDispatchRunsTheScancode.1 s b agents hok he hm hh hps2
  obtain ⟨m, hscan, hdispatch⟩ := hrun ha
  have hkb : m.kb.head ≠ m.kb.tail := by
    obtain ⟨t, ht, hne⟩ := enqueue_of_empty (ch := ch)
      (s := { s with kmod := (kbdDecode s.cfg s.kmod b).1 }) hok hempty hh
    have hstep : kbdStep b s = .next m := (kbdStep_eq_exec b s).trans hscan
    rw [kbdStep_of_char hch, ht] at hstep
    cases hstep
    exact hne
  have hcon : (if s.conState = .asleep then ConState.retry else s.conState) = .preHlt := by
    rw [hc]; rfl
  exact ⟨_, _, hdispatch, execConReadChar_hlt rfl hcon, rfl, hkb, rfl⟩

/-! ### Along a run -/

/-- A dispatch writes a fault bit in HANDLING and at phase 3 only, which rule R41 excludes. -/
theorem RegistersOk.dispatch_noFault {i : Instr} {s t : State} (h : RegistersOk s)
    (hn : noFaultRecorded s) (hf : i.format = .vec8) (he : exec i s = .next t) :
    noFaultRecorded t := by
  rcases dispatch_outcome hf he with
    rfl | ⟨f, hwhere, -⟩ | ⟨-, v, err, kind, info, rfl⟩ | ⟨-, hserv⟩
  · exact hn
  · exact absurd hwhere (not_or.mpr ⟨h.notHandling, h.phase⟩)
  · exact hn
  · rw [hserv.frame]; exact hn

theorem consumer_noFault {i : Instr} {s t : State} (hn : noFaultRecorded s) (hf : i.format = .con2)
    (he : exec i s = .next t) : noFaultRecorded t := by
  rw [(consumerOperationsFrame i s t hf he).1]; exact hn

theorem RegistersOk.step_noFault {s t : State} (hr : RegistersOk s) (hn : noFaultRecorded s)
    (h : step s = .next t) : noFaultRecorded t := by
  have hboth : RegistersOk t ∧ noFaultRecorded t :=
    step_keeps (P := fun s => RegistersOk s ∧ noFaultRecorded s)
      (fun _ a h => ⟨h.1.with_agents a, h.2⟩)
      (fun _ _ _ hf h he => ⟨h.1.dispatch hf he, h.1.dispatch_noFault h.2 hf he⟩)
      (fun _ _ _ hf h he => ⟨h.1.consumer hf he, consumer_noFault h.2 hf he⟩) ⟨hr, hn⟩ h
  exact hboth.2

theorem step_cfg {s t : State} (h : step s = .next t) : t.cfg = s.cfg :=
  have hexec : ∀ i u t, u.cfg = s.cfg → exec i u = .next t → t.cfg = s.cfg :=
    fun i u t hu he => (noOperationWritesTheConfiguration i u t he).trans hu
  step_keeps (P := fun u => u.cfg = s.cfg) (fun _ _ hu => hu) (fun i u t _ => hexec i u t)
    (fun i u t _ => hexec i u t) rfl h

/-- What every state of a run has: the launch's configuration, both invariants, no fault. -/
structure RunOk (c : Cfg) (s : State) : Prop where
  cfg : s.cfg = c
  registers : RegistersOk s
  keyBuffer : KeyBufferOk s
  noFault : noFaultRecorded s

theorem BootDone.runOk {s : State} (h : BootDone s) : RunOk s.cfg s := by
  have hregisters := (registersOk_init h.remapped).with_agents s.agents
  have hbuffer := (keyBufferOk_agents (State.init s.cfg) s.agents).mpr (keyBufferOk_init s.cfg)
  rw [← h.reset] at hregisters hbuffer
  exact ⟨rfl, hregisters, hbuffer, h.noFaultRecorded⟩

theorem RunOk.runStep {c : Cfg} {s t : State} (h : RunOk c s) (hst : RunStep s t) : RunOk c t := by
  refine hst.keeps (fun u hu => ?_) (fun u a hu => ?_)
  · exact ⟨(step_cfg hu).trans h.cfg, everyStepKeepsTheRegisterInvariant s u h.registers hu,
      everyStepKeepsTheKeyBuffer s u h.registers h.keyBuffer hu,
      h.registers.step_noFault h.noFault hu⟩
  · exact ⟨hu.cfg, hu.registers.with_agents a, (keyBufferOk_agents u a).mpr hu.keyBuffer,
      hu.noFault⟩

theorem IsRun.runOk {σ : Nat → State} {last : Option Nat} (h : IsRun σ last) :
    ∀ n, withinRun last n → RunOk (σ 0).cfg (σ n) :=
  h.induct h.boot.runOk fun _ _ hs hst => hs.runStep hst

/-- Settles O58: `RunOk` is the launch's, and a step's with the agents' new choice. -/
theorem runsKeepTheInvariants : Obligations.RunsKeepTheInvariants := by
  intro σ last h n hn
  obtain ⟨hcfg, hregisters, hbuffer, hfault⟩ := h.runOk n hn
  exact ⟨hcfg, hregisters, hbuffer, hfault, hregisters.notHandling⟩

/-! ### The end of a run -/

/-- The agents that hold out these offers and queue no answer. -/
def Agents.offering (os : List Offer) : Agents := ⟨os, [], [], 0⟩

section
variable {s : State}

theorem ne_halted_of_idle (hm : s.mode = .idle) : s.mode ≠ .halted := by rw [hm]; decide

theorem RegistersOk.idle_of_not_halted (h : RegistersOk s) (hm : s.mode ≠ .halted) :
    s.mode = .idle := by
  cases hmode : s.mode with
  | idle => rfl
  | handling => exact absurd hmode h.notHandling
  | halted => exact absurd hmode hm

theorem runEnd_of_refused {r : Refusal} (hm : s.mode ≠ .halted) (h : step s = .refused r) :
    runEnd s = .refused r := by rw [runEnd, if_neg hm, h]

theorem runEnd_of_offer {u : State} (hm : s.mode ≠ .halted) (hin : s.agents.inputs ≠ [])
    (h : step s = .next u) : runEnd s = .running := by
  rw [runEnd, if_neg hm, h]
  exact if_neg fun hstop => hin hstop.1

theorem not_runStep_of_halted (hm : s.mode = .halted) (t : State) : ¬ RunStep s t :=
  fun ⟨hrunning, _⟩ => hrunning hm

theorem not_runStep_of_no_offer (hin : s.agents.inputs = []) (t : State) : ¬ RunStep s t :=
  fun ⟨_, hoffer, _⟩ => hoffer hin

theorem not_runStep_of_refused {r : Refusal} (h : step s = .refused r) (t : State) :
    ¬ RunStep s t := by
  rintro ⟨-, -, u, a, hu, -⟩
  rw [h] at hu
  cases hu

/-- The agents can always leave nothing on offer, so a step that answers is a run's step. -/
theorem exists_runStep {u : State} (hm : s.mode ≠ .halted) (hin : s.agents.inputs ≠ [])
    (h : step s = .next u) : ∃ t, RunStep s t :=
  ⟨_, runStep_of_next (a := .offering []) hm hin h rfl⟩

/-- Behind the gate table, what is refused is an offer that rule R264 forbids the host (rules R100,
R163, R212). -/
theorem refused_of_throughGates {r : Refusal} (hok : s.cfg.ok = true)
    (hg : s.agents.throughGates s.cfg = true) (h : step s = .refused r) :
    (r = .sideValueShape ∨ r = .reservedCon) ∧
      ∃ o rest, s.agents.inputs = o :: rest ∧ o.legal s.cfg = false := by
  obtain ⟨hoffered, hnone, -⟩ := stepRunsTheDecodedOperation
  cases hin : s.agents.inputs with
  | nil => rw [hnone s hok hin] at h; cases h
  | cons o rest =>
    rw [Agents.throughGates, hin, List.all_cons, Bool.and_eq_true] at hg
    rw [hoffered s o rest hok hin] at h
    rcases exec_offer_eq_refused (s := { s with agents := { s.agents with inputs := rest } }) h with
      ⟨v, err, cr2, rfl, ⟨-, habsent⟩ | ⟨rfl, hbad⟩⟩ | ⟨rfl, rfl⟩
    · exact absurd habsent (of_decide_eq_true hg.1)
    · refine ⟨.inl rfl, _, _, rfl, ?_⟩
      rw [Offer.legal, hbad, Bool.not_true, Bool.and_false]
    · exact ⟨.inr rfl, _, _, rfl, rfl⟩

end

/-- Settles O59: by the mode, then by the step's answer, then by whether anything is offered. -/
theorem runsEndInOneOfThreeWays : Obligations.RunsEndInOneOfThreeWays := by
  intro σ n h
  have hn : withinRun (some n) n := (withinRun_some n n).mpr le_rfl
  obtain ⟨-, hregisters, -, -⟩ := h.runOk n hn
  have hgates := h.throughGates n hn
  generalize σ n = s at hregisters hgates
  by_cases hm : s.mode = .halted
  · rw [runEnd_halted hm]
    exact ⟨hm, rfl, hregisters.halted.mpr hm, not_runStep_of_halted hm⟩
  cases hstep : step s with
  | fault f => exact absurd hstep (noFaultUnderTheInvariant s hregisters f)
  | refused r =>
    rw [runEnd_of_refused hm hstep]
    obtain ⟨hr, hoffer⟩ := refused_of_throughGates hregisters.config hgates hstep
    exact ⟨hr, hoffer, not_runStep_of_refused hstep⟩
  | next u =>
    by_cases hin : s.agents.inputs = []
    · have hidle := hregisters.idle_of_not_halted hm
      rw [runEnd_eq_stopped.mpr ⟨hidle, hin, hregisters.config⟩]
      exact ⟨hidle, hin, not_runStep_of_no_offer hin⟩
    · rw [runEnd_of_offer hm hin hstep]
      exact exists_runStep hm hin hstep

/-! ### Each end occurs -/

/-- The launch at which the agents hold out these offers. -/
def launch (c : Cfg) (os : List Offer) : State := { State.init c with agents := .offering os }

section
variable {c : Cfg} (hc : c.ok = true)
include hc

theorem launch_bootDone {os : List Offer} (ho : os.all (Offer.throughGates c) = true) :
    BootDone (launch c os) :=
  bootDone_init hc ho

theorem launch_step (o : Offer) : step (launch c [o]) = exec (decode c o.word) (State.init c) :=
  stepRunsTheDecodedOperation.1 (launch c [o]) o [] hc rfl

/-- A divide error at launch reports and halts (rule R105). -/
theorem launch_divideByZero {err cr2 : Option Word32} (hb : badSideValues c 0 err cr2 = false) :
    ∃ u, step (launch c [.int 0 err cr2]) = .next u ∧
      u.mode = .halted ∧ u.haltReason = some (0, ⟨none, none⟩) := by
  rw [launch_step hc]
  exact ⟨_, handled_halts (s := State.init c) (v := 0) rfl (by decide) hb rfl, rfl, rfl⟩

theorem launch_reserved : step (launch c [.con 3]) = .refused .reservedCon :=
  (launch_step hc (.con 3)).trans (exec_conReserved _)

end

/-- Zero side values fit every vector (rule R72). -/
theorem zeroSideValues_fit (c : Cfg) (v : Byte) :
    badSideValues c v (zeroSideValues c v).1 (zeroSideValues c v).2 = false := by
  rw [badSideValues_eq_false, zeroSideValues]
  constructor <;> split <;> simp_all

/-! ### The wait without end -/

/-- Where CON stands, in the `n`-th state of a READ_CHAR that finds nothing (rule R161). -/
def waitState : Nat → ConState
  | 0 => .ready
  | 1 => .preHlt
  | _ + 2 => .asleep

/-- The run in which CON offers READ_CHAR without end and no dispatch comes (rule R253). -/
def waitRun (c : Cfg) (n : Nat) : State := { launch c [.con 1] with conState := waitState n }

/-- The TEST finds nothing, the HLT begins the wait, and the wait goes on. -/
theorem execConReadChar_wait {s : State} (hm : s.mode = .idle) (hempty : s.kb.head = s.kb.tail)
    (n : Nat) (hc : s.conState = waitState n) :
    exec .conReadChar s = .next { s with conState := waitState (n + 1) } := by
  match n with
  | 0 => rw [execConReadChar_test hm (.inl hc), testStep_of_empty hempty]; rfl
  | 1 => rw [execConReadChar_hlt hm hc]; rfl
  | n + 2 => rw [execConReadChar_asleep hm hc, show waitState (n + 2 + 1) = s.conState from hc.symm]

theorem waitRun_step {c : Cfg} (hc : c.ok = true) (n : Nat) :
    RunStep (waitRun c n) (waitRun c (n + 1)) := by
  have hstep : step (waitRun c n) = .next { State.init c with conState := waitState (n + 1) } :=
    (stepRunsTheDecodedOperation.1 (waitRun c n) (.con 1) [] hc rfl).trans
      (execConReadChar_wait (s := { State.init c with conState := waitState n }) rfl rfl n rfl)
  exact runStep_of_next (a := .offering [.con 1]) (ne_halted_of_idle rfl) (List.cons_ne_nil _ _)
    hstep rfl

theorem waitRun_isRun {c : Cfg} (hc : c.ok = true) : IsRun (waitRun c) none :=
  ⟨launch_bootDone hc rfl, fun n _ => waitRun_step hc n⟩

/-- Settles O60: a divide error at launch, the reserved command at launch, a launch with nothing
offered, and `waitRun`. -/
theorem everyEndOfARunOccurs : Obligations.EveryEndOfARunOccurs := by
  intro c hc
  refine ⟨?_, ?_, ?_, waitRun c, waitRun_isRun hc, rfl, rfl, fun n => ⟨rfl, rfl⟩⟩
  · obtain ⟨u, hstep, hm, hwhy⟩ := launch_divideByZero hc (zeroSideValues_fit c 0)
    have hst := runStep_of_next (a := .offering []) (ne_halted_of_idle rfl) (List.cons_ne_nil _ _)
      hstep rfl
    refine ⟨_, 1, (0, ⟨none, none⟩), isRun_pair (launch_bootDone hc rfl) hst, rfl, ?_⟩
    exact (runEnd_halted (s := { u with agents := .offering [] }) hm).trans (congrArg _ hwhy)
  · exact ⟨_, 0, _, isRun_single (launch_bootDone hc rfl), rfl,
      runEnd_of_refused (ne_halted_of_idle rfl) (launch_reserved hc)⟩
  · exact ⟨_, 0, isRun_single (launch_bootDone (os := []) hc rfl), rfl,
      runEnd_eq_stopped.mpr ⟨rfl, rfl, hc⟩⟩

end Sys2Proof.Machine
